-- ==== Sys2Proof/Word.lean ====
section
/-! DEFINITION. The widths of the core's data (00_scope.md R6, R8). -/

namespace Sys2Proof

/-- An 8-bit value: a V register, a timer, a byte of memory (10_state.md R20). -/
abbrev Byte := BitVec 8

/-- A 16-bit value: I, PC, a return address, an instruction word (10_state.md R20, 30_encoding.md R67). -/
abbrev Word := BitVec 16

/-- The number of a general register, V0 to VF (10_state.md R21): the X and Y fields of an instruction. -/
abbrev Reg := Fin 16

/-- `fb[y][x]`: 32 rows of 64 cells, true is a foreground pixel (10_state.md R30). -/
abbrev Framebuffer := Vector (Vector Bool 64) 32

/-- `keys[0..15]`, true is pressed (10_state.md R31). -/
abbrev Keypad := Vector Bool 16

end Sys2Proof
end

