-- ==== Sys2Proof/Syntax.lean ====
section
/-! DEFINITION. The 33 instructions (00_scope.md R2): one constructor per row of spec/opcode_table.json, named by its
mnemonic in lower case, with the fields of 30_encoding.md R68 that the row uses. -/

namespace Sys2Proof

/-- x and y are register numbers, nn the 8-bit literal, nnn the 12-bit address, n the row count of DXYN. -/
inductive Instr where
  /-- 00E0, clear screen (R125). -/
  | cls
  /-- 00EE, return (R97). -/
  | ret
  /-- 1NNN, jump (R98). -/
  | jp (nnn : BitVec 12)
  /-- 2NNN, call (R99). -/
  | call (nnn : BitVec 12)
  /-- 3XNN, skip if V[X] = NN (R100). -/
  | sei (x : Reg) (nn : Byte)
  /-- 4XNN, skip if V[X] ≠ NN (R101). -/
  | snei (x : Reg) (nn : Byte)
  /-- 5XY0, skip if V[X] = V[Y] (R102). -/
  | se (x y : Reg)
  /-- 6XNN, load immediate (R106). -/
  | ldi (x : Reg) (nn : Byte)
  /-- 7XNN, add immediate (R107). -/
  | addi (x : Reg) (nn : Byte)
  /-- 8XY0, register copy (R108). -/
  | ld (x y : Reg)
  /-- 8XY1, OR (R109). -/
  | or (x y : Reg)
  /-- 8XY2, AND (R110). -/
  | and (x y : Reg)
  /-- 8XY3, XOR (R111). -/
  | xor (x y : Reg)
  /-- 8XY4, add with carry (R112). -/
  | add (x y : Reg)
  /-- 8XY5, subtract (R113). -/
  | sub (x y : Reg)
  /-- 8XY6, shift left (R114). -/
  | shl (x y : Reg)
  /-- 8XY7, reverse subtract (R115). -/
  | subn (x y : Reg)
  /-- 8XYE, shift right (R116). -/
  | shr (x y : Reg)
  /-- 9XY0, skip if V[X] ≠ V[Y] (R103). -/
  | sne (x y : Reg)
  /-- ANNN, load index (R119). -/
  | ldidx (nnn : BitVec 12)
  /-- CXNN, random masked (R117). -/
  | rnd (x : Reg) (nn : Byte)
  /-- DXYN, draw sprite (R126). -/
  | drw (x y : Reg) (n : Nat)
  /-- EX9E, skip if key pressed (R130). -/
  | skp (x : Reg)
  /-- EXA1, skip if key not pressed (R131). -/
  | sknp (x : Reg)
  /-- FX07, read delay timer (R133). -/
  | ldvdt (x : Reg)
  /-- FX0A, wait for a key (R134). -/
  | ldk (x : Reg)
  /-- FX15, set delay timer (R135). -/
  | lddtv (x : Reg)
  /-- FX18, set sound timer (R136). -/
  | ldstv (x : Reg)
  /-- FX1E, add to index (R120). -/
  | addidx (x : Reg)
  /-- FX29, font glyph address (R121). -/
  | ldf (x : Reg)
  /-- FX33, store decimal digits (R122). -/
  | ldb (x : Reg)
  /-- FX55, store registers (R123). -/
  | stm (x : Reg)
  /-- FX65, load registers (R124). -/
  | ldm (x : Reg)
deriving DecidableEq, Repr

end Sys2Proof
end

