-- ==== Sys2Proof/WellFormed.lean ====
section
/-! DEFINITION. Which instructions have a word (30_encoding.md R68). The types of Syntax.lean bound every field but
one: N, the row count of DXYN, is a 4-bit field. -/

namespace Sys2Proof

/-- The operands fit their fields: N is 0..15 (44_display.md R126). -/
def Instr.wellFormed : Instr → Bool
  | .drw _ _ n => decide (n < 16)
  | .cls | .ret => true
  | .jp _ | .call _ | .ldidx _ => true
  | .sei _ _ | .snei _ _ | .ldi _ _ | .addi _ _ | .rnd _ _ => true
  | .se _ _ | .sne _ _ | .ld _ _ | .or _ _ | .and _ _ | .xor _ _ => true
  | .add _ _ | .sub _ _ | .shl _ _ | .subn _ _ | .shr _ _ => true
  | .skp _ | .sknp _ | .ldvdt _ | .ldk _ | .lddtv _ | .ldstv _ => true
  | .addidx _ | .ldf _ | .ldb _ | .stm _ | .ldm _ => true

end Sys2Proof
end

