-- ==== Sys2Proof/Decode.lean ====
section
/-! DEFINITION. Byte order, fields, the decoder (30_encoding.md R67 to R78) and, after it, the encoder. -/

namespace Sys2Proof

/-- Big-endian: the byte at pc0 is bits 15..8, the byte at pc0 + 1 bits 7..0 (20_memory.md R47, 30_encoding.md R67). -/
def wordOfBytes (high low : Byte) : Word := high ++ low

/-- The byte stored at the lower address (R47). -/
def highByte (w : Word) : Byte := w.extractLsb' 8 8

/-- The byte stored at the higher address (R47). -/
def lowByte (w : Word) : Byte := w.extractLsb' 0 8

/-- The top nibble w[15:12] (30_encoding.md R68). -/
def opField (w : Word) : BitVec 4 := w.extractLsb' 12 4

/-- A register number from its 4-bit field (R68). -/
def regOfField (f : BitVec 4) : Reg := ⟨f.toNat, f.isLt⟩

/-- X = w[11:8] (R68). -/
def xField (w : Word) : Reg := regOfField (w.extractLsb' 8 4)

/-- Y = w[7:4] (R68). -/
def yField (w : Word) : Reg := regOfField (w.extractLsb' 4 4)

/-- N = w[3:0] (R68). -/
def nField (w : Word) : BitVec 4 := w.extractLsb' 0 4

/-- NN = w[7:0] (R68). -/
def nnField (w : Word) : Byte := w.extractLsb' 0 8

/-- NNN = w[11:0] (R68). -/
def nnnField (w : Word) : BitVec 12 := w.extractLsb' 0 12

/-- Why bytes are no instruction. -/
inductive DecodeError where
  /-- The word matches none of the 33 patterns (30_encoding.md R75). -/
  | unimplemented (w : Word)
  /-- Fewer than the two bytes of an instruction (R77). -/
  | truncated (bytes : List Byte)
deriving DecidableEq, Repr

/-- Group 0: the exact words 0x00E0 and 0x00EE (30_encoding.md R71). -/
def decodeGroup0 (w : Word) : Except DecodeError Instr :=
  if w = 0x00E0#16 then .ok .cls
  else if w = 0x00EE#16 then .ok .ret
  else .error (.unimplemented w)

/-- Group 8, secondary dispatch on N (30_encoding.md R72). -/
def decodeGroup8 (w : Word) : Except DecodeError Instr :=
  match nField w with
  | 0x0#4 => .ok (.ld (xField w) (yField w))
  | 0x1#4 => .ok (.or (xField w) (yField w))
  | 0x2#4 => .ok (.and (xField w) (yField w))
  | 0x3#4 => .ok (.xor (xField w) (yField w))
  | 0x4#4 => .ok (.add (xField w) (yField w))
  | 0x5#4 => .ok (.sub (xField w) (yField w))
  | 0x6#4 => .ok (.shl (xField w) (yField w))
  | 0x7#4 => .ok (.subn (xField w) (yField w))
  | 0xE#4 => .ok (.shr (xField w) (yField w))
  | _     => .error (.unimplemented w)

/-- Group E, secondary dispatch on NN (30_encoding.md R71). -/
def decodeGroupE (w : Word) : Except DecodeError Instr :=
  match nnField w with
  | 0x9E#8 => .ok (.skp (xField w))
  | 0xA1#8 => .ok (.sknp (xField w))
  | _      => .error (.unimplemented w)

/-- Group F, secondary dispatch on NN (30_encoding.md R73). -/
def decodeGroupF (w : Word) : Except DecodeError Instr :=
  match nnField w with
  | 0x07#8 => .ok (.ldvdt (xField w))
  | 0x0A#8 => .ok (.ldk (xField w))
  | 0x15#8 => .ok (.lddtv (xField w))
  | 0x18#8 => .ok (.ldstv (xField w))
  | 0x1E#8 => .ok (.addidx (xField w))
  | 0x29#8 => .ok (.ldf (xField w))
  | 0x33#8 => .ok (.ldb (xField w))
  | 0x55#8 => .ok (.stm (xField w))
  | 0x65#8 => .ok (.ldm (xField w))
  | _      => .error (.unimplemented w)

/-- The opcode map by top nibble (30_encoding.md R70, R71). The last arm is 0xB, which has no instruction (R76). -/
def decodeWord (w : Word) : Except DecodeError Instr :=
  match opField w with
  | 0x0#4 => decodeGroup0 w
  | 0x1#4 => .ok (.jp (nnnField w))
  | 0x2#4 => .ok (.call (nnnField w))
  | 0x3#4 => .ok (.sei (xField w) (nnField w))
  | 0x4#4 => .ok (.snei (xField w) (nnField w))
  | 0x5#4 => if nField w = 0#4 then .ok (.se (xField w) (yField w)) else .error (.unimplemented w)
  | 0x6#4 => .ok (.ldi (xField w) (nnField w))
  | 0x7#4 => .ok (.addi (xField w) (nnField w))
  | 0x8#4 => decodeGroup8 w
  | 0x9#4 => if nField w = 0#4 then .ok (.sne (xField w) (yField w)) else .error (.unimplemented w)
  | 0xA#4 => .ok (.ldidx (nnnField w))
  | 0xC#4 => .ok (.rnd (xField w) (nnField w))
  | 0xD#4 => .ok (.drw (xField w) (yField w) (nField w).toNat)
  | 0xE#4 => decodeGroupE w
  | 0xF#4 => decodeGroupF w
  | _     => .error (.unimplemented w)

/-- One instruction from the front of a list of bytes, with the rest: every instruction is two bytes (R77). -/
def decodeBytes : List Byte → Except DecodeError (Instr × List Byte)
  | high :: low :: rest =>
    match decodeWord (wordOfBytes high low) with
    | .ok i    => .ok (i, rest)
    | .error e => .error e
  | bytes => .error (.truncated bytes)

/-- The decoder on an opcode-table row's bits: the one 16-bit word, bit 0 its least significant bit, bits at or
above `nbits` zero. The word is laid out big-endian and given to the decoder. -/
def decodeTableWord (nbits w : Nat) : Option Instr :=
  let word : Word := BitVec.ofNat 16 (w % 2 ^ nbits)
  match decodeBytes [highByte word, lowByte word] with
  | .ok (i, _) => some i
  | .error _   => none

/-- The 4-bit field of a register number. -/
def fieldOfReg (x : Reg) : BitVec 4 := BitVec.ofNat 4 x.val

/-- op, X, NN (30_encoding.md R68, second layout). -/
def encodeXNN (op : BitVec 4) (x : Reg) (nn : Byte) : Word := op ++ fieldOfReg x ++ nn

/-- op, X, Y, N (R68, first layout). -/
def encodeXYN (op : BitVec 4) (x y : Reg) (n : BitVec 4) : Word := op ++ fieldOfReg x ++ fieldOfReg y ++ n

/-- op, NNN (R68, third layout). -/
def encodeNNN (op : BitVec 4) (nnn : BitVec 12) : Word := op ++ nnn

/-- The word of a well-formed instruction, from the `encoding` strings of spec/opcode_table.json (30_encoding.md R79). -/
def encode : Instr → Word
  | .cls          => 0x00E0#16
  | .ret          => 0x00EE#16
  | .jp nnn       => encodeNNN 0x1#4 nnn
  | .call nnn     => encodeNNN 0x2#4 nnn
  | .sei x nn     => encodeXNN 0x3#4 x nn
  | .snei x nn    => encodeXNN 0x4#4 x nn
  | .se x y       => encodeXYN 0x5#4 x y 0x0#4
  | .ldi x nn     => encodeXNN 0x6#4 x nn
  | .addi x nn    => encodeXNN 0x7#4 x nn
  | .ld x y       => encodeXYN 0x8#4 x y 0x0#4
  | .or x y       => encodeXYN 0x8#4 x y 0x1#4
  | .and x y      => encodeXYN 0x8#4 x y 0x2#4
  | .xor x y      => encodeXYN 0x8#4 x y 0x3#4
  | .add x y      => encodeXYN 0x8#4 x y 0x4#4
  | .sub x y      => encodeXYN 0x8#4 x y 0x5#4
  | .shl x y      => encodeXYN 0x8#4 x y 0x6#4
  | .subn x y     => encodeXYN 0x8#4 x y 0x7#4
  | .shr x y      => encodeXYN 0x8#4 x y 0xE#4
  | .sne x y      => encodeXYN 0x9#4 x y 0x0#4
  | .ldidx nnn    => encodeNNN 0xA#4 nnn
  | .rnd x nn     => encodeXNN 0xC#4 x nn
  | .drw x y n    => encodeXYN 0xD#4 x y (BitVec.ofNat 4 n)
  | .skp x        => encodeXNN 0xE#4 x 0x9E#8
  | .sknp x       => encodeXNN 0xE#4 x 0xA1#8
  | .ldvdt x      => encodeXNN 0xF#4 x 0x07#8
  | .ldk x        => encodeXNN 0xF#4 x 0x0A#8
  | .lddtv x      => encodeXNN 0xF#4 x 0x15#8
  | .ldstv x      => encodeXNN 0xF#4 x 0x18#8
  | .addidx x     => encodeXNN 0xF#4 x 0x1E#8
  | .ldf x        => encodeXNN 0xF#4 x 0x29#8
  | .ldb x        => encodeXNN 0xF#4 x 0x33#8
  | .stm x        => encodeXNN 0xF#4 x 0x55#8
  | .ldm x        => encodeXNN 0xF#4 x 0x65#8

/-- A row's `mask` in spec/opcode_table.json: the bits its pattern fixes (30_encoding.md R70). -/
def Instr.mask : Instr → Word
  | .cls | .ret => 0xFFFF#16
  | .jp _ | .call _ | .ldidx _ => 0xF000#16
  | .sei _ _ | .snei _ _ | .ldi _ _ | .addi _ _ | .rnd _ _ | .drw _ _ _ => 0xF000#16
  | .se _ _ | .sne _ _ | .ld _ _ | .or _ _ | .and _ _ | .xor _ _ => 0xF00F#16
  | .add _ _ | .sub _ _ | .shl _ _ | .subn _ _ | .shr _ _ => 0xF00F#16
  | .skp _ | .sknp _ | .ldvdt _ | .ldk _ | .lddtv _ | .ldstv _ => 0xF0FF#16
  | .addidx _ | .ldf _ | .ldb _ | .stm _ | .ldm _ => 0xF0FF#16

/-- A row's `match` in spec/opcode_table.json (30_encoding.md R70). -/
def Instr.pattern : Instr → Word
  | .cls => 0x00E0#16
  | .ret => 0x00EE#16
  | .jp _ => 0x1000#16
  | .call _ => 0x2000#16
  | .sei _ _ => 0x3000#16
  | .snei _ _ => 0x4000#16
  | .se _ _ => 0x5000#16
  | .ldi _ _ => 0x6000#16
  | .addi _ _ => 0x7000#16
  | .ld _ _ => 0x8000#16
  | .or _ _ => 0x8001#16
  | .and _ _ => 0x8002#16
  | .xor _ _ => 0x8003#16
  | .add _ _ => 0x8004#16
  | .sub _ _ => 0x8005#16
  | .shl _ _ => 0x8006#16
  | .subn _ _ => 0x8007#16
  | .shr _ _ => 0x800E#16
  | .sne _ _ => 0x9000#16
  | .ldidx _ => 0xA000#16
  | .rnd _ _ => 0xC000#16
  | .drw _ _ _ => 0xD000#16
  | .skp _ => 0xE09E#16
  | .sknp _ => 0xE0A1#16
  | .ldvdt _ => 0xF007#16
  | .ldk _ => 0xF00A#16
  | .lddtv _ => 0xF015#16
  | .ldstv _ => 0xF018#16
  | .addidx _ => 0xF01E#16
  | .ldf _ => 0xF029#16
  | .ldb _ => 0xF033#16
  | .stm _ => 0xF055#16
  | .ldm _ => 0xF065#16

/-- The word matches the row of instruction `i`: `w AND mask = match` (30_encoding.md R70). -/
def matchesRow (w : Word) (i : Instr) : Bool := decide (w &&& i.mask = i.pattern)

end Sys2Proof
end

