-- ==== Sys2Proof/Config.lean ====
section
/-! DEFINITION. The configuration parameters of 00_scope.md R7, one parameter for a point on which two rules of the spec
disagree, and the model's one free value. -/

namespace Sys2Proof

/-- ALIAS_MODE (42_alu.md R105): what 8XY4, 8XY5, 8XY6, 8XY7 and 8XYE do when X or Y is 0xF. -/
inductive AliasMode where
  | sequential
  | flagLast
  | fault
deriving DecidableEq, Repr

/-- FX1E_VF_MODE (43_index_memory.md R120): whether FX1E writes VF. -/
inductive IndexFlagMode where
  | set
  | unchanged
deriving DecidableEq, Repr

/-- KEY_INDEX_POLICY (45_keypad_timers.md R129): a key index above 0xF. -/
inductive KeyIndexPolicy where
  | fault
  | mask
deriving DecidableEq, Repr

/-- LOW_WRITE_POLICY (20_memory.md R46): a store below 0x200. -/
inductive LowWritePolicy where
  | write
  | fault
deriving DecidableEq, Repr

/-- INIT_POLICY (10_state.md R39): what V, I, DT, ST and memory outside the font and the image hold after reset. -/
inductive InitPolicy where
  | zero
  | unspecified
deriving DecidableEq, Repr

/-- DESIGN CHOICE: what the record of an UninitialisedRead of a memory byte holds as its address, where two rules disagree
and 90_conflicts.md rules on neither (log entry 28). -/
inductive UninitialisedAddr where
  /-- the byte's address: the table of 60_exceptions.md R139 -/
  | memoryAddress
  /-- none: the table of 10_state.md R33 -/
  | omitted
deriving DecidableEq, Repr

/-- The parameters a rule of the core reads (00_scope.md R7). STEPS_PER_FRAME and TICK_HZ are read by no rule
of the core (log entry 25). The last field is the model's own (log entry 28). -/
structure Config where
  font           : Vector Byte 80
  aliasMode      : AliasMode
  indexFlagMode  : IndexFlagMode
  keyIndexPolicy : KeyIndexPolicy
  lowWritePolicy : LowWritePolicy
  initPolicy     : InitPolicy
  uninitialisedAddr : UninitialisedAddr
deriving DecidableEq, Repr

/-- The glyphs of the digits 0 to 7 in the default FONT (70_reset_and_hazards.md R164). PRESUMED: the bytes are
general knowledge, not the document's (log entry 6). -/
def Config.lowGlyphs : List Byte :=
  [0xF0, 0x90, 0x90, 0x90, 0xF0] ++ [0x20, 0x60, 0x20, 0x20, 0x70] ++
  [0xF0, 0x10, 0xF0, 0x80, 0xF0] ++ [0xF0, 0x10, 0xF0, 0x10, 0xF0] ++
  [0x90, 0x90, 0xF0, 0x10, 0x10] ++ [0xF0, 0x80, 0xF0, 0x10, 0xF0] ++
  [0xF0, 0x80, 0xF0, 0x90, 0xF0] ++ [0xF0, 0x10, 0x20, 0x40, 0x40]

/-- The glyphs of the digits 8 to F in the default FONT (70_reset_and_hazards.md R164), PRESUMED as above. -/
def Config.highGlyphs : List Byte :=
  [0xF0, 0x90, 0xF0, 0x90, 0xF0] ++ [0xF0, 0x90, 0xF0, 0x10, 0xF0] ++
  [0xF0, 0x90, 0xF0, 0x90, 0x90] ++ [0xE0, 0x90, 0xE0, 0x90, 0xE0] ++
  [0xF0, 0x80, 0x80, 0x80, 0xF0] ++ [0xE0, 0x90, 0x90, 0x90, 0xE0] ++
  [0xF0, 0x80, 0xF0, 0x80, 0xF0] ++ [0xF0, 0x80, 0xF0, 0x80, 0x80]

/-- The default FONT, glyph d at offset 5·d (70_reset_and_hazards.md R164; log entry 6). -/
def Config.conventionalFont : Vector Byte 80 :=
  ⟨(Config.lowGlyphs ++ Config.highGlyphs).toArray, rfl⟩

/-- Every parameter at the default of 00_scope.md R7 (log entries 4 to 10), the model's own at R139 (log entry 28). -/
def Config.default : Config where
  font           := Config.conventionalFont
  aliasMode      := .sequential
  indexFlagMode  := .set
  keyIndexPolicy := .fault
  lowWritePolicy := .write
  initPolicy     := .zero
  uninitialisedAddr := .memoryAddress

/-- What an address of memory that nothing has written reads as (10_state.md R39): 0 under `zero`, no value under
`unspecified` (log entry 5). -/
def InitPolicy.unlisted : InitPolicy → Option Byte
  | .zero        => some 0
  | .unspecified => none

/-- The free value of the model: the n-th random byte the environment supplies, under no law (00_scope.md R14,
92_eei_decisions.md D23; log entry 3). It has no body, so nothing can be proved of its values. -/
opaque Config.randomByte : Nat → Byte

end Sys2Proof
end

