-- ==== Sys2Proof/Machine/Memory.lean ====
section
/-! DEFINITION. Memory as a canonical list of (address, byte), strictly rising in the address, no entry equal to what
an unlisted address reads as (20_memory.md R40; log entry 5). `u` is what an unlisted address reads as. -/

namespace Sys2Proof.Machine

abbrev Memory := List Host.Cell

/-- The entry at address `a`, if one is listed. -/
def Memory.cellAt : Memory → Nat → Option Byte
  | [], _ => none
  | (k, b) :: m, a => if k = a then some b else Memory.cellAt m a

/-- The byte at address `a`; `none` where it has no value (INIT_POLICY = unspecified only). -/
def Memory.read (u : Option Byte) (m : Memory) (a : Nat) : Option Byte :=
  match m.cellAt a with
  | some b => some b
  | none   => u

/-- List the byte `b` at address `a`, in its place. -/
def Memory.insertCell : Memory → Nat → Byte → Memory
  | [], a, b => [(a, b)]
  | (k, c) :: m, a, b =>
    if a < k then (a, b) :: (k, c) :: m
    else if a = k then (a, b) :: m
    else (k, c) :: Memory.insertCell m a b

/-- Take the entry at address `a` off the list. -/
def Memory.eraseCell : Memory → Nat → Memory
  | [], _ => []
  | (k, c) :: m, a => if a = k then m else (k, c) :: Memory.eraseCell m a

/-- Store one byte (00_scope.md R11), keeping the canonical form. -/
def Memory.write (u : Option Byte) (m : Memory) (a : Nat) (b : Byte) : Memory :=
  if some b = u then m.eraseCell a else m.insertCell a b

/-- Store bytes at ascending addresses from `a` (20_memory.md R55). -/
def Memory.writeBytes (u : Option Byte) (m : Memory) (a : Nat) : List Byte → Memory
  | []      => m
  | b :: bs => Memory.writeBytes u (m.write u a b) (a + 1) bs

/-- The canonical form, over the addresses 0x000..0xFFF (20_memory.md R40). -/
abbrev Memory.wf (u : Option Byte) (m : Memory) : Prop :=
  m.Pairwise (fun c d => c.1 < d.1) ∧ ∀ c ∈ m, c.1 < 4096 ∧ some c.2 ≠ u

end Sys2Proof.Machine
end

