-- ==== Sys2Proof/Machine/State.lean ====
section
/-! DEFINITION. The core's state (10_state.md R20), what can stop it, and the state after reset. -/

namespace Sys2Proof.Machine

/-- The run flag (10_state.md R34). -/
inductive RunFlag where
  | running
  | paused
deriving DecidableEq, Repr

/-- The causes of 60_exceptions.md R139. The last two are the spec's model-only causes. -/
inductive Cause where
  | stackOverflow
  | stackUnderflow
  | addressOutOfRange
  | keyIndexOutOfRange
  | protectedWrite
  | loadRejected
  | uninitialisedRead
  | aliasRefused
deriving DecidableEq, Repr

/-- The fault record (10_state.md R33, 60_exceptions.md R139). The two differ in `addr` for one cause, UninitialisedRead of
a memory byte, where the parameter `uninitialisedAddr` chooses (log entry 28). -/
structure FaultRecord where
  cause  : Cause
  code   : Byte
  pc     : Word
  opcode : Option Word
  addr   : Option Word
deriving DecidableEq, Repr

/-- Marks of the registers that hold no value yet (10_state.md R39, 60_exceptions.md R148). The marks count only under
INIT_POLICY = unspecified (log entry 20). -/
structure Unset where
  v  : Vector Bool 16
  i  : Bool
  dt : Bool
  st : Bool
deriving DecidableEq, Repr

/-- The first twelve fields are 10_state.md R20, one each. The last four are the model's own (log entries 2, 3, 20). -/
structure State where
  /-- V[0..15], VF is V[15] (R21, R22) -/
  v     : Vector Byte 16
  /-- the index register I (R24) -/
  i     : Word
  /-- PC (R25) -/
  pc    : Word
  /-- stack[0..11] (R27) -/
  stack : Vector Word 12
  /-- SP, the depth 0..12 (R28; log entry 14) -/
  sp    : Fin 13
  /-- the delay timer DT (R29) -/
  dt    : Byte
  /-- the sound timer ST (R29) -/
  st    : Byte
  /-- mem[0..4095] (20_memory.md R40) -/
  mem   : Memory
  /-- fb[y][x] (R30) -/
  fb    : Framebuffer
  /-- the keypad latch (R31) -/
  keys  : Keypad
  /-- the run flag (R34) -/
  run   : RunFlag
  /-- the fault record (R33) -/
  fault : Option FaultRecord
  /-- the parameters (00_scope.md R7; log entry 28), which nothing writes -/
  cfg   : Config
  /-- which registers hold no value yet -/
  unset : Unset
  /-- r, the random byte of the next step: a free value -/
  rand  : Byte
  /-- how many random bytes have been drawn -/
  draws : Nat
deriving DecidableEq, Repr

/-- What stops the machine. -/
inductive Fault where
  /-- The core is FAULTED: a step changes nothing and returns `Faulted(fault)` (40_cycle.md R81, R91). Raised by
  `step`'s gate alone, never by an instruction's meaning. Safe: it is the spec's own outcome (log entry 12). -/
  | faulted (record : FaultRecord)
deriving DecidableEq, Repr

/-- What the model refuses. -/
inductive Refusal where
  /-- An instruction that has no meaning in the model. Raised by no arm of `exec`: all 33 have one. Safe. -/
  | notModelled (mnemonic : String)
deriving DecidableEq, Repr

/-- The state `Reset` leaves for an empty image (10_state.md R39, 70_reset_and_hazards.md R162), under the given
parameters. Registers: 0, and marked as having no value under INIT_POLICY = unspecified (log entries 4, 20). -/
def State.initial (cfg : Config) : State where
  v     := Vector.replicate 16 0
  i     := 0
  pc    := 0x200
  stack := Vector.replicate 12 0
  sp    := 0
  dt    := 0
  st    := 0
  mem   := Memory.writeBytes cfg.initPolicy.unlisted [] 0x050 cfg.font.toList
  fb    := Vector.replicate 32 (Vector.replicate 64 false)
  keys  := Vector.replicate 16 false
  run   := .running
  fault := none
  cfg   := cfg
  unset :=
    let mark := decide (cfg.initPolicy = .unspecified)
    { v := Vector.replicate 16 mark, i := mark, dt := mark, st := mark }
  rand  := Config.randomByte 0
  draws := 1

/-- The machine right after `Reset` with an empty image and the default parameters (10_state.md R39; log entry 18). -/
def State.reset : State := State.initial Config.default

end Sys2Proof.Machine
end

