-- ==== Sys2Proof/Machine/Ops.lean ====
section
/-! DEFINITION. The named operations over registers, the stack and memory, fetching, and taking a fault. -/

namespace Sys2Proof.Machine

/-! ## Taking a fault -/

/-- What an instruction or a fetch raises (00_scope.md R12): the cause and the address it records. -/
structure Trap where
  cause : Cause
  addr  : Option Word
deriving DecidableEq, Repr

/-- The cause's number (60_exceptions.md R139). -/
def Cause.code : Cause → Byte
  | .stackOverflow      => 1
  | .stackUnderflow     => 2
  | .addressOutOfRange  => 3
  | .keyIndexOutOfRange => 4
  | .protectedWrite     => 5
  | .loadRejected       => 6
  | .uninitialisedRead  => 0x80
  | .aliasRefused       => 0x81

/-- The record of a trap raised by the step at `s.pc`; `opcode` is `none` for a fetch fault (10_state.md R33). -/
def State.recordOf (s : State) (opcode : Option Word) (t : Trap) : FaultRecord where
  cause  := t.cause
  code   := t.cause.code
  pc     := s.pc
  opcode := opcode
  addr   := t.addr

/-- Fault entry (40_cycle.md R86, 60_exceptions.md R150): the state is exactly as before the step, PC = pc0, with the
fault record set. There is no handler and no return from a fault (R151). -/
def State.takeFault (s : State) (opcode : Option Word) (t : Trap) : State :=
  { s with fault := some (s.recordOf opcode t) }

/-- The end of an instruction's meaning (40_cycle.md R86, R89): its effect is committed whole, or, if it raised a trap,
none of it is and the fault is taken. `s` is the state before the step, so the record's pc is pc0 (log entry 11) and its
opcode is the instruction's word (log entry 13). -/
def State.commit (s : State) (i : Instr) : Except Trap State → Host.Outcome State Fault Refusal
  | .ok t    => .next t
  | .error t => .next (s.takeFault (some (encode i)) t)

/-! ## Program counter -/

/-- `PC <- pc0 + 2`, the fetch's advance, in 16 bits and never reduced to 12 (40_cycle.md R83). -/
def State.advance (s : State) : State := { s with pc := s.pc + 2 }

/-- `PC <- target` (00_scope.md R10). -/
def State.setPc (s : State) (target : Word) : State := { s with pc := target }

/-- `if c: PC <- PC + 2`, a skip on top of the fetch's advance (00_scope.md R17, 41_control_flow.md R100). -/
def State.skipIf (s : State) (c : Bool) : State :=
  match c with
  | true  => { s with pc := s.pc + 2 }
  | false => s

/-- `PC <- PC - 2`, back to pc0 (45_keypad_timers.md R134). -/
def State.rewind (s : State) : State := { s with pc := s.pc - 2 }

/-! ## Registers

A read of a register that holds no value raises `UninitialisedRead`, under INIT_POLICY = unspecified only; a write
gives the register a value (60_exceptions.md R148). -/

/-- V[x] holds no value. -/
def State.valuelessV (s : State) (x : Reg) : Bool := decide (s.cfg.initPolicy = .unspecified) && s.unset.v[x]

/-- I holds no value. -/
def State.valuelessI (s : State) : Bool := decide (s.cfg.initPolicy = .unspecified) && s.unset.i

/-- DT holds no value. -/
def State.valuelessDt (s : State) : Bool := decide (s.cfg.initPolicy = .unspecified) && s.unset.dt

/-- ST holds no value. -/
def State.valuelessSt (s : State) : Bool := decide (s.cfg.initPolicy = .unspecified) && s.unset.st

/-- Read V[x] (10_state.md R21, 60_exceptions.md R148). -/
def State.readV (s : State) (x : Reg) : Except Trap Byte :=
  if s.valuelessV x then .error ⟨.uninitialisedRead, none⟩ else .ok s.v[x]

/-- Read I (10_state.md R24, 60_exceptions.md R148). -/
def State.readI (s : State) : Except Trap Word :=
  if s.valuelessI then .error ⟨.uninitialisedRead, none⟩ else .ok s.i

/-- Read DT (10_state.md R29, 60_exceptions.md R148). -/
def State.readDt (s : State) : Except Trap Byte :=
  if s.valuelessDt then .error ⟨.uninitialisedRead, none⟩ else .ok s.dt

/-- Read ST, for `ReadSoundTimer`: no instruction reads it (10_state.md R29, R38, 60_exceptions.md R148). -/
def State.readSt (s : State) : Except Trap Byte :=
  if s.valuelessSt then .error ⟨.uninitialisedRead, none⟩ else .ok s.st

/-- V[x] has been written. -/
def Unset.clearV (u : Unset) (x : Reg) : Unset := { u with v := u.v.set x.val false x.isLt }

/-- `V[x] <- b` (00_scope.md R10). -/
def State.setV (s : State) (x : Reg) (b : Byte) : State :=
  { s with v := s.v.set x.val b x.isLt, unset := s.unset.clearV x }

/-- `I <- w`. -/
def State.setI (s : State) (w : Word) : State := { s with i := w, unset := { s.unset with i := false } }

/-- `DT <- b`. -/
def State.setDt (s : State) (b : Byte) : State := { s with dt := b, unset := { s.unset with dt := false } }

/-- `ST <- b`. -/
def State.setSt (s : State) (b : Byte) : State := { s with st := b, unset := { s.unset with st := false } }

/-- Read the listed registers in order (43_index_memory.md R123). -/
def State.readVs (s : State) : List Reg → Except Trap (List Byte)
  | [] => .ok []
  | x :: xs => do
    let b ← s.readV x
    let bs ← s.readVs xs
    return b :: bs

/-- Write the listed registers in order (43_index_memory.md R124). -/
def State.setVs (s : State) : List Reg → List Byte → State
  | x :: xs, b :: bs => (s.setV x b).setVs xs bs
  | _, _ => s

/-! ## Return stack (10_state.md R27, R28) -/

/-- `stack[SP] <- w; SP <- SP + 1`, or StackOverflow at SP = 12 (41_control_flow.md R99). -/
def State.push (s : State) (w : Word) : Except Trap State :=
  if h : s.sp.val < 12 then
    .ok { s with stack := s.stack.set s.sp.val w h, sp := ⟨s.sp.val + 1, by omega⟩ }
  else .error ⟨.stackOverflow, none⟩

/-- `SP <- SP - 1; PC <- stack[SP]`, or StackUnderflow at SP = 0 (41_control_flow.md R97). The entry stays. -/
def State.popPc (s : State) : Except Trap State :=
  if h : s.sp.val = 0 then .error ⟨.stackUnderflow, none⟩
  else .ok { s with pc := s.stack[s.sp.val - 1]'(by omega), sp := ⟨s.sp.val - 1, by omega⟩ }

/-! ## Memory -/

/-- The byte at address `a` of `mem`; `none` where it has no value. -/
def State.byteAt (s : State) (a : Nat) : Option Byte := s.mem.read s.cfg.initPolicy.unlisted a

/-- The address recorded for a read of the byte at `a` that has no value: the address (60_exceptions.md R139) or none
(10_state.md R33), as the parameter says (log entry 28). -/
def recordedByteAddr (p : UninitialisedAddr) (a : Nat) : Option Word :=
  match p with
  | .memoryAddress => some (BitVec.ofNat 16 a)
  | .omitted       => none

/-- `MemRead(a, 1)` (00_scope.md R11): the bound (20_memory.md R51), then the value (60_exceptions.md R148). -/
def State.loadByte (s : State) (a : Nat) : Except Trap Byte :=
  if 4096 ≤ a then .error ⟨.addressOutOfRange, some (BitVec.ofNat 16 a)⟩
  else match s.byteAt a with
    | some b => .ok b
    | none   => .error ⟨.uninitialisedRead, recordedByteAddr s.cfg.uninitialisedAddr a⟩

/-- The `n` bytes from `a`, in ascending order (20_memory.md R55). -/
def State.loadBytes (s : State) : Nat → Nat → Except Trap (List Byte)
  | _, 0 => .ok []
  | a, n + 1 => do
    let b ← s.loadByte a
    let bs ← s.loadBytes (a + 1) n
    return b :: bs

/-- `MemWrite` of the bytes at ascending addresses from `a`, after the check of R118. -/
def State.storeBytes (s : State) (a : Nat) (bs : List Byte) : State :=
  { s with mem := s.mem.writeBytes s.cfg.initPolicy.unlisted a bs }

/-- The direction of a transfer between `mem` and the core (43_index_memory.md R118). -/
inductive Transfer where
  | load
  | store
deriving DecidableEq, Repr

/-- The check of a transfer of the `n ≥ 1` bytes from `a` (43_index_memory.md R118), made before any byte moves: the
bound first, then, for a store under LOW_WRITE_POLICY = fault, the low region (20_memory.md R46). -/
def checkTransfer (policy : LowWritePolicy) (dir : Transfer) (a n : Nat) : Except Trap Unit :=
  if 4096 ≤ a + n - 1 then .error ⟨.addressOutOfRange, some (BitVec.ofNat 16 (max a 0x1000))⟩
  else if dir = .store ∧ policy = .fault ∧ a < 0x200 then .error ⟨.protectedWrite, some (BitVec.ofNat 16 a)⟩
  else .ok ()

/-- Read I and check the transfer of `n ≥ 1` bytes there; the answer is the address I (20_memory.md R50). -/
def State.transferBase (s : State) (dir : Transfer) (n : Nat) : Except Trap Nat := do
  let w ← s.readI
  checkTransfer s.cfg.lowWritePolicy dir w.toNat n
  return w.toNat

/-! ## Fetch -/

/-- `MemRead(pc0, 2)` with its bound (40_cycle.md R82, R83): big-endian, pc0 + 1 on unbounded integers. -/
def State.fetch (s : State) : Except Trap Word :=
  if 4096 ≤ s.pc.toNat + 1 then .error ⟨.addressOutOfRange, some (BitVec.ofNat 16 (max s.pc.toNat 0x1000))⟩
  else do
    let high ← s.loadByte s.pc.toNat
    let low ← s.loadByte (s.pc.toNat + 1)
    return wordOfBytes high low

/-- Store a word big-endian at PC, where the next step fetches (20_memory.md R47). -/
def State.placeWord (s : State) (w : Word) : State := s.storeBytes s.pc.toNat [highByte w, lowByte w]

/-! ## The random byte -/

/-- The step has used its random byte r: the next step's is fresh, under no law (00_scope.md R14; log entry 3). -/
def State.drawNext (s : State) : State := { s with rand := Config.randomByte s.draws, draws := s.draws + 1 }

end Sys2Proof.Machine
end

