-- ==== Sys2Proof/Machine/Flags.lean ====
section
/-! DEFINITION. The flag computations and the writes of VF (10_state.md R32). VF is V[15] (R22). -/

namespace Sys2Proof.Machine

/-- The flag register VF (10_state.md R22). -/
def vf : Reg := 15

/-- A flag as a register value, 1 or 0. -/
def flagByte : Bool → Byte
  | true  => 1
  | false => 0

/-- `V[F] <- c ? 1 : 0`. -/
def State.setFlag (s : State) (c : Bool) : State := s.setV vf (flagByte c)

/-- Carry: the true sum exceeds 255 (42_alu.md R104, R112). -/
def carry (a b : Byte) : Bool := decide (a.toNat + b.toNat > 255)

/-- No borrow in a - b: a ≥ b, equal operands included (42_alu.md R104, R113). -/
def noBorrow (a b : Byte) : Bool := decide (a.toNat ≥ b.toNat)

/-- Bit 7, shifted out to the left (42_alu.md R114). -/
def highBit (a : Byte) : Bool := a.getLsbD 7

/-- Bit 0, shifted out to the right (42_alu.md R116). -/
def lowBit (a : Byte) : Bool := a.getLsbD 0

/-- I + V[X] on unbounded integers exceeds 0xFFF (43_index_memory.md R120). -/
def indexOverflow (i : Word) (a : Byte) : Bool := decide (i.toNat + a.toNat > 0xFFF)

/-- FX1E's flag: written, as 1 or as 0, in mode `set` only (43_index_memory.md R120). -/
def State.setIndexFlag (s : State) (c : Bool) : State :=
  match s.cfg.indexFlagMode with
  | .set       => s.setFlag c
  | .unchanged => s

/-- ALIAS_MODE's choice between an instruction's two statement orders (42_alu.md R105). Under `fault`, where neither X
nor Y is VF when this is reached, the two agree. -/
def State.byAliasMode (s : State) (sequential flagLast : State) : State :=
  match s.cfg.aliasMode with
  | .sequential => sequential
  | .flagLast   => flagLast
  | .fault      => sequential

end Sys2Proof.Machine
end

