-- ==== Sys2Proof/Machine/Operands.lean ====
section
/-! DEFINITION. The operand forms (30_encoding.md R69): addresses, register ranges, keys, coordinates, digits. -/

namespace Sys2Proof.Machine

/-- `zext_16(NNN)` (30_encoding.md R69). -/
def addressOf (nnn : BitVec 12) : Word := nnn.setWidth 16

/-- Every register, in ascending order. -/
def allRegs : List Reg := [0, 1, 2, 3, 4, 5, 6, 7, 8, 9, 10, 11, 12, 13, 14, 15]

/-- The range V[0..X] of FX55 and FX65, X included (30_encoding.md R69). -/
def regsUpTo (x : Reg) : List Reg := allRegs.take (x.val + 1)

/-- The lowest pressed key, if any key is pressed (45_keypad_timers.md R134). -/
def lowestPressed (keys : Keypad) : Option Reg := allRegs.find? (fun k => keys[k])

/-- `KeyPressed(v)` (45_keypad_timers.md R129). -/
def keyPressed (policy : KeyIndexPolicy) (keys : Keypad) (v : Byte) : Except Trap Bool :=
  if h : v.toNat ≤ 0xF then .ok (keys[v.toNat]'(by omega))
  else match policy with
    | .fault => .error ⟨.keyIndexOutOfRange, some (v.setWidth 16)⟩
    | .mask  => .ok (keys[v.toNat % 16]'(by omega))

/-- `KeyPressed(V[x])` (45_keypad_timers.md R130, R131). -/
def State.keyOf (s : State) (x : Reg) : Except Trap Bool := do
  let v ← s.readV x
  keyPressed s.cfg.keyIndexPolicy s.keys v

/-- The decimal digits of a byte: hundreds, tens, units, a byte each (43_index_memory.md R122). -/
def decimalDigits (v : Byte) : List Byte :=
  [BitVec.ofNat 8 (v.toNat / 100), BitVec.ofNat 8 (v.toNat / 10 % 10), BitVec.ofNat 8 (v.toNat % 10)]

/-- `0x050 + V[X] * 5`, V[X] not masked (43_index_memory.md R121). -/
def glyphAddress (v : Byte) : Word := BitVec.ofNat 16 (0x050 + v.toNat * 5)

/-- `x0 = V[X] mod 64` (44_display.md R127). -/
def startColumn (v : Byte) : Nat := v.toNat % 64

/-- `y0 = V[Y] mod 32` (44_display.md R127). -/
def startRow (v : Byte) : Nat := v.toNat % 32

/-- How many of a sprite's `n` rows lie above the bottom edge (44_display.md R126). -/
def visibleRows (y0 n : Nat) : Nat := min n (32 - y0)

/-- The bytes of the sprite rows that are drawn. All N rows are checked (20_memory.md R52), the clipped ones are not
read, and for N = 0 nothing is (44_display.md R126; log entry 15). -/
def State.spriteRows (s : State) (n y0 : Nat) : Except Trap (List Byte) :=
  if n = 0 then .ok []
  else do
    let a ← s.transferBase .load n
    s.loadBytes a (visibleRows y0 n)

/-- AliasRefused (42_alu.md R105, 60_exceptions.md R147): under ALIAS_MODE = fault, X or Y is VF. -/
def State.checkAlias (s : State) (x y : Reg) : Except Trap Unit :=
  if s.cfg.aliasMode = .fault ∧ (x = 15 ∨ y = 15) then .error ⟨.aliasRefused, none⟩ else .ok ()

end Sys2Proof.Machine
end

