-- ==== Sys2Proof/Machine/Alu.lean ====
section
/-! DEFINITION. Register loads, logic, arithmetic, shifts and random (42_alu.md R104 to R117). In every meaning `s` is
the state before the step and `s.advance` the state in which the instruction's own statements run (log entry 11). -/

namespace Sys2Proof.Machine

/-- 6XNN: `V[X] <- NN` (R106). -/
def execLdi (x : Reg) (nn : Byte) (s : State) : Host.Outcome State Fault Refusal :=
  .next (s.advance.setV x nn)

/-- 7XNN: `V[X] <- (V[X] + NN) mod 256`, no flag (R107). -/
def execAddi (x : Reg) (nn : Byte) (s : State) : Host.Outcome State Fault Refusal :=
  s.commit (.addi x nn) do
    let a ← s.readV x
    return s.advance.setV x (a + nn)

/-- 8XY0: `V[X] <- V[Y]` (R108). -/
def execLd (x y : Reg) (s : State) : Host.Outcome State Fault Refusal :=
  s.commit (.ld x y) do
    let b ← s.readV y
    return s.advance.setV x b

/-- 8XY1: `V[X] <- V[X] OR V[Y]`, VF unchanged unless X = 0xF (R109). -/
def execOr (x y : Reg) (s : State) : Host.Outcome State Fault Refusal :=
  s.commit (.or x y) do
    let a ← s.readV x
    let b ← s.readV y
    return s.advance.setV x (a ||| b)

/-- 8XY2: `V[X] <- V[X] AND V[Y]`, VF unchanged unless X = 0xF (R110). -/
def execAnd (x y : Reg) (s : State) : Host.Outcome State Fault Refusal :=
  s.commit (.and x y) do
    let a ← s.readV x
    let b ← s.readV y
    return s.advance.setV x (a &&& b)

/-- 8XY3: `V[X] <- V[X] XOR V[Y]`, VF unchanged unless X = 0xF (R111). -/
def execXor (x y : Reg) (s : State) : Host.Outcome State Fault Refusal :=
  s.commit (.xor x y) do
    let a ← s.readV x
    let b ← s.readV y
    return s.advance.setV x (a ^^^ b)

/-- The `sequential` order of R112: `V[F] <- carry; V[X] <- sum mod 256`, the sum taken at the start. -/
def addSequential (x : Reg) (a b : Byte) (s : State) : State := (s.setFlag (carry a b)).setV x (a + b)

/-- The `flag_last` order of R112. -/
def addFlagLast (x : Reg) (a b : Byte) (s : State) : State := (s.setV x (a + b)).setFlag (carry a b)

/-- 8XY4: add with carry (R112). -/
def execAdd (x y : Reg) (s : State) : Host.Outcome State Fault Refusal :=
  s.commit (.add x y) do
    s.checkAlias x y
    let a ← s.readV x
    let b ← s.readV y
    return s.byAliasMode (addSequential x a b s.advance) (addFlagLast x a b s.advance)

/-- The `sequential` order of R113: `V[F] <- (V[X] >= V[Y])`, then the difference of V[X] and V[Y] as they stand after
that write. -/
def subSequential (x y : Reg) (a b : Byte) (s : State) : State :=
  let s₁ := s.setFlag (noBorrow a b)
  s₁.setV x (s₁.v[x] - s₁.v[y])

/-- The `flag_last` order of R113. -/
def subFlagLast (x : Reg) (a b : Byte) (s : State) : State := (s.setV x (a - b)).setFlag (noBorrow a b)

/-- 8XY5: subtract, VF = 1 when there is no borrow (R113). -/
def execSub (x y : Reg) (s : State) : Host.Outcome State Fault Refusal :=
  s.commit (.sub x y) do
    s.checkAlias x y
    let a ← s.readV x
    let b ← s.readV y
    return s.byAliasMode (subSequential x y a b s.advance) (subFlagLast x a b s.advance)

/-- The `sequential` order of R114: `V[X] <- V[Y]; V[F] <- b7; V[X] <- (V[X] << 1) mod 256`. -/
def shlSequential (x : Reg) (b : Byte) (s : State) : State :=
  let s₁ := (s.setV x b).setFlag (highBit b)
  s₁.setV x (s₁.v[x] <<< 1)

/-- The `flag_last` order of R114. -/
def shlFlagLast (x : Reg) (b : Byte) (s : State) : State := (s.setV x (b <<< 1)).setFlag (highBit b)

/-- 8XY6: shift V[Y] left by one into V[X], VF = bit 7 (R114; the direction is this document's). -/
def execShl (x y : Reg) (s : State) : Host.Outcome State Fault Refusal :=
  s.commit (.shl x y) do
    s.checkAlias x y
    let b ← s.readV y
    return s.byAliasMode (shlSequential x b s.advance) (shlFlagLast x b s.advance)

/-- The `sequential` order of R115: `V[F] <- (V[Y] >= V[X])`, then the difference of V[Y] and V[X] as they stand after
that write. -/
def subnSequential (x y : Reg) (a b : Byte) (s : State) : State :=
  let s₁ := s.setFlag (noBorrow b a)
  s₁.setV x (s₁.v[y] - s₁.v[x])

/-- The `flag_last` order of R115. -/
def subnFlagLast (x : Reg) (a b : Byte) (s : State) : State := (s.setV x (b - a)).setFlag (noBorrow b a)

/-- 8XY7: reverse subtract (R115). -/
def execSubn (x y : Reg) (s : State) : Host.Outcome State Fault Refusal :=
  s.commit (.subn x y) do
    s.checkAlias x y
    let a ← s.readV x
    let b ← s.readV y
    return s.byAliasMode (subnSequential x y a b s.advance) (subnFlagLast x a b s.advance)

/-- The `sequential` order of R116: `V[X] <- V[Y]; V[F] <- b0; V[X] <- V[X] >> 1`. -/
def shrSequential (x : Reg) (b : Byte) (s : State) : State :=
  let s₁ := (s.setV x b).setFlag (lowBit b)
  s₁.setV x (s₁.v[x] >>> 1)

/-- The `flag_last` order of R116. -/
def shrFlagLast (x : Reg) (b : Byte) (s : State) : State := (s.setV x (b >>> 1)).setFlag (lowBit b)

/-- 8XYE: shift V[Y] right by one into V[X], VF = bit 0 (R116; the direction is this document's). -/
def execShr (x y : Reg) (s : State) : Host.Outcome State Fault Refusal :=
  s.commit (.shr x y) do
    s.checkAlias x y
    let b ← s.readV y
    return s.byAliasMode (shrSequential x b s.advance) (shrFlagLast x b s.advance)

/-- CXNN: `V[X] <- r AND NN`, r the step's random byte (R117; log entry 3). -/
def execRnd (x : Reg) (nn : Byte) (s : State) : Host.Outcome State Fault Refusal :=
  .next (s.advance.drawNext.setV x (s.rand &&& nn))

end Sys2Proof.Machine
end

