-- ==== Sys2Proof/Machine/ControlFlow.lean ====
section
/-! DEFINITION. Return, jump, call and the conditional skips (41_control_flow.md R96 to R103). -/

namespace Sys2Proof.Machine

/-- 00EE: pop PC, or StackUnderflow (R97). -/
def execRet (s : State) : Host.Outcome State Fault Refusal :=
  s.commit .ret s.advance.popPc

/-- 1NNN: `PC <- zext_16(NNN)` (R98). -/
def execJp (nnn : BitVec 12) (s : State) : Host.Outcome State Fault Refusal :=
  .next (s.advance.setPc (addressOf nnn))

/-- 2NNN: push PC = pc0 + 2, then `PC <- zext_16(NNN)`, or StackOverflow (R99). -/
def execCall (nnn : BitVec 12) (s : State) : Host.Outcome State Fault Refusal :=
  s.commit (.call nnn) do
    let t ← s.advance.push s.advance.pc
    return t.setPc (addressOf nnn)

/-- 3XNN: skip if V[X] = NN (R100). -/
def execSei (x : Reg) (nn : Byte) (s : State) : Host.Outcome State Fault Refusal :=
  s.commit (.sei x nn) do
    let a ← s.readV x
    return s.advance.skipIf (decide (a = nn))

/-- 4XNN: skip if V[X] ≠ NN (R101). -/
def execSnei (x : Reg) (nn : Byte) (s : State) : Host.Outcome State Fault Refusal :=
  s.commit (.snei x nn) do
    let a ← s.readV x
    return s.advance.skipIf (decide (a ≠ nn))

/-- 5XY0: skip if V[X] = V[Y] (R102). -/
def execSe (x y : Reg) (s : State) : Host.Outcome State Fault Refusal :=
  s.commit (.se x y) do
    let a ← s.readV x
    let b ← s.readV y
    return s.advance.skipIf (decide (a = b))

/-- 9XY0: skip if V[X] ≠ V[Y] (R103). -/
def execSne (x y : Reg) (s : State) : Host.Outcome State Fault Refusal :=
  s.commit (.sne x y) do
    let a ← s.readV x
    let b ← s.readV y
    return s.advance.skipIf (decide (a ≠ b))

end Sys2Proof.Machine
end

