-- ==== Sys2Proof/Machine/Display.lean ====
section
/-! DEFINITION. Clear screen and the XOR sprite draw (44_display.md R125 to R128). -/

namespace Sys2Proof.Machine

/-- A draw in progress: the cells, and whether a 1-bit has met a true cell so far. -/
structure Canvas where
  fb  : Framebuffer
  hit : Bool
deriving DecidableEq, Repr

/-- XOR the bit `p` into cell (x, y); a 1-bit on a true cell is a collision (R126). -/
def Canvas.plot (c : Canvas) (x : Fin 64) (y : Fin 32) (p : Bool) : Canvas where
  fb  := c.fb.set y.val ((c.fb[y]).set x.val ((c.fb[y])[x] ^^ p) x.isLt) y.isLt
  hit := c.hit || (p && (c.fb[y])[x])

/-- The columns of one sprite row, bit 7 first; stops at the right edge (R126). -/
def Canvas.drawColumns (x0 : Nat) (y : Fin 32) (s : Byte) : List Nat → Canvas → Canvas
  | [], c => c
  | col :: cols, c =>
    if h : x0 + col < 64 then Canvas.drawColumns x0 y s cols (c.plot ⟨x0 + col, h⟩ y (s.getLsbD (7 - col)))
    else c

/-- One row of a sprite, the byte `s`, with its left end at column `x0` (R127). -/
def Canvas.drawRow (c : Canvas) (x0 : Nat) (y : Fin 32) (s : Byte) : Canvas :=
  Canvas.drawColumns x0 y s [0, 1, 2, 3, 4, 5, 6, 7] c

/-- The rows of a sprite from row `y` down; stops at the bottom edge (R126). -/
def Canvas.drawRows (x0 : Nat) : Nat → List Byte → Canvas → Canvas
  | _, [], c => c
  | y, s :: rows, c =>
    if h : y < 32 then Canvas.drawRows x0 (y + 1) rows (c.drawRow x0 ⟨y, h⟩ s)
    else c

/-- Every cell false (R125). -/
def blankFramebuffer : Framebuffer := Vector.replicate 32 (Vector.replicate 64 false)

/-- 00E0: clear the framebuffer; VF is unchanged (R125). -/
def execCls (s : State) : Host.Outcome State Fault Refusal :=
  .next { s.advance with fb := blankFramebuffer }

/-- DXYN: draw the N rows at I with the start point (V[X] mod 64, V[Y] mod 32), read before VF is cleared; VF is the
collision flag (R126). -/
def execDrw (x y : Reg) (n : Nat) (s : State) : Host.Outcome State Fault Refusal :=
  s.commit (.drw x y n) do
    let a ← s.readV x
    let b ← s.readV y
    let rows ← s.spriteRows n (startRow b)
    let c := Canvas.drawRows (startColumn a) (startRow b) rows { fb := s.fb, hit := false }
    return { s.advance with fb := c.fb }.setFlag c.hit

end Sys2Proof.Machine
end

