-- ==== Sys2Proof/Machine/IndexMemory.lean ====
section
/-! DEFINITION. The index register and memory transfer (43_index_memory.md R118 to R124). -/

namespace Sys2Proof.Machine

/-- ANNN: `I <- zext_16(NNN)` (R119). -/
def execLdidx (nnn : BitVec 12) (s : State) : Host.Outcome State Fault Refusal :=
  .next (s.advance.setI (addressOf nnn))

/-- FX1E: `I <- (I + V[X]) mod 65536`, and VF in mode `set` (R120). -/
def execAddidx (x : Reg) (s : State) : Host.Outcome State Fault Refusal :=
  s.commit (.addidx x) do
    let w ← s.readI
    let a ← s.readV x
    return (s.advance.setI (BitVec.ofNat 16 (w.toNat + a.toNat))).setIndexFlag (indexOverflow w a)

/-- FX29: `I <- 0x050 + V[X] * 5` (R121). -/
def execLdf (x : Reg) (s : State) : Host.Outcome State Fault Refusal :=
  s.commit (.ldf x) do
    let a ← s.readV x
    return s.advance.setI (glyphAddress a)

/-- FX33: the decimal digits of V[X] to mem[I..I+2] (R122). -/
def execLdb (x : Reg) (s : State) : Host.Outcome State Fault Refusal :=
  s.commit (.ldb x) do
    let v ← s.readV x
    let a ← s.transferBase .store 3
    return s.advance.storeBytes a (decimalDigits v)

/-- FX55: V[0..X] to mem[I..I+X], I unchanged (R123). -/
def execStm (x : Reg) (s : State) : Host.Outcome State Fault Refusal :=
  s.commit (.stm x) do
    let a ← s.transferBase .store (x.val + 1)
    let bs ← s.readVs (regsUpTo x)
    return s.advance.storeBytes a bs

/-- FX65: mem[I..I+X] to V[0..X], I unchanged (R124). -/
def execLdm (x : Reg) (s : State) : Host.Outcome State Fault Refusal :=
  s.commit (.ldm x) do
    let a ← s.transferBase .load (x.val + 1)
    let bs ← s.loadBytes a (x.val + 1)
    return s.advance.setVs (regsUpTo x) bs

end Sys2Proof.Machine
end

