-- ==== Sys2Proof/Machine/KeypadTimers.lean ====
section
/-! DEFINITION. The keypad and timer instructions (45_keypad_timers.md R129 to R136). The `Tick` transaction (R138) is
in Machine/Interface.lean. -/

namespace Sys2Proof.Machine

/-- EX9E: skip if key V[X] is pressed (R130). -/
def execSkp (x : Reg) (s : State) : Host.Outcome State Fault Refusal :=
  s.commit (.skp x) do
    let p ← s.keyOf x
    return s.advance.skipIf p

/-- EXA1: skip if key V[X] is not pressed (R131). -/
def execSknp (x : Reg) (s : State) : Host.Outcome State Fault Refusal :=
  s.commit (.sknp x) do
    let p ← s.keyOf x
    return s.advance.skipIf (!p)

/-- FX07: `V[X] <- DT` (R133). -/
def execLdvdt (x : Reg) (s : State) : Host.Outcome State Fault Refusal :=
  s.commit (.ldvdt x) do
    let d ← s.readDt
    return s.advance.setV x d

/-- FX0A: `V[X] <-` the lowest pressed key; with none pressed, `PC <- PC - 2`, so the next step runs it again (R134). -/
def execLdk (x : Reg) (s : State) : Host.Outcome State Fault Refusal :=
  .next (match lowestPressed s.keys with
    | some k => s.advance.setV x (BitVec.ofNat 8 k.val)
    | none   => s.advance.rewind)

/-- FX15: `DT <- V[X]` (R135). -/
def execLddtv (x : Reg) (s : State) : Host.Outcome State Fault Refusal :=
  s.commit (.lddtv x) do
    let a ← s.readV x
    return s.advance.setDt a

/-- FX18: `ST <- V[X]`, no tone event (R136). -/
def execLdstv (x : Reg) (s : State) : Host.Outcome State Fault Refusal :=
  s.commit (.ldstv x) do
    let a ← s.readV x
    return s.advance.setSt a

end Sys2Proof.Machine
end

