-- ==== Sys2Proof/Machine/Step.lean ====
section
/-! DEFINITION. The `Step` transaction (40_cycle.md R81 to R89), its random byte r being `s.rand` (log entry 1). -/

namespace Sys2Proof.Machine

/-- The gate (R81), fetch (R82, R83), decode (R84), the unimplemented no-op (R87), execute (R85). A FAULTED core answers
its record and stays as it is (log entry 12); a PAUSED core stays as it is. -/
def step (s : State) : Host.Outcome State Fault Refusal :=
  match s.fault, s.run with
  | some record, _ => .fault (.faulted record)
  | none, .paused  => .next s
  | none, .running =>
    match s.fetch with
    | .error t => .next (s.takeFault none t)
    | .ok w =>
      match decodeWord w with
      | .error _ => .next s.advance
      | .ok i    => exec i s

/-- `s` with the row's word stored where the next step fetches, running and not faulted, PC at the entry point if PC is
where nothing can be fetched (log entry 18). -/
def State.withFetchWord (s : State) (nbits w : Nat) : State :=
  let word : Word := BitVec.ofNat 16 (w % 2 ^ nbits)
  let ready : State := { s with run := .running, fault := none }
  if s.pc.toNat + 1 < 4096 then ready.placeWord word else (ready.setPc 0x200).placeWord word

end Sys2Proof.Machine
end

