-- ==== Sys2Proof/Machine/Interface.lean ====
section
/-! DEFINITION. The transactions of the core's interface (00_scope.md R5) and what each returns (10_state.md R38). -/

namespace Sys2Proof.Machine

/-! ## Step outcomes -/

/-- What a step returns (40_cycle.md R88). -/
inductive StepReport where
  | ok
  | unimplemented (pc0 w : Word)
  | faulted (record : FaultRecord)
  | notRunning
deriving DecidableEq, Repr

/-- The report of a step from a running core that answered `o`: Faulted if the fault record is now set (R86), else Ok.
No step answers a refusal (no arm of `exec` refuses); its line is there for totality. -/
def reportOf : Host.Outcome State Fault Refusal → StepReport
  | .next t =>
    match t.fault with
    | some record => .faulted record
    | none        => .ok
  | .fault (.faulted record) => .faulted record
  | .refused _ => .notRunning

/-- The outcome of the step that `step s` takes (R81, R87, R88). -/
def stepReport (s : State) : StepReport :=
  match s.fault, s.run with
  | some record, _ => .faulted record
  | none, .paused  => .notRunning
  | none, .running =>
    match s.fetch with
    | .error _ => reportOf (step s)
    | .ok w =>
      match decodeWord w with
      | .error _ => .unimplemented s.pc w
      | .ok _    => reportOf (step s)

/-! ## Tick -/

/-- The core is RUNNING: neither PAUSED nor FAULTED (40_cycle.md R91). -/
def State.active (s : State) : Bool := decide (s.fault = none) && decide (s.run = .running)

/-- One less, floored at 0 (45_keypad_timers.md R132). -/
def countDown (b : Byte) : Byte := if b = 0 then 0 else b - 1

/-- `Tick()`: both timers count down together; nothing else changes, and nothing at all unless RUNNING
(45_keypad_timers.md R138). -/
def State.tick (s : State) : State :=
  if s.active then { s with dt := countDown s.dt, st := countDown s.st } else s

/-- The tone event `Tick` returns: true exactly when this tick takes ST from 1 to 0 (R137). `none`: ST holds no value
(INIT_POLICY = unspecified only), and `Tick` raises nothing (60_exceptions.md R149; log entry 17). -/
def State.tickTone (s : State) : Option Bool :=
  if s.active then
    if s.valuelessSt then none else some (decide (s.st = 1))
  else some false

/-! ## Reset -/

/-- The longest image `Reset` accepts, 4096 - 0x200 bytes (00_scope.md R6). -/
def maxImage : Nat := 3584

/-- The length a LoadRejected record holds: the image's, saturated at 0xFFFF (10_state.md R33). -/
def lengthWord (n : Nat) : Word := BitVec.ofNat 16 (min n 0xFFFF)

/-- The record of a rejected image (70_reset_and_hazards.md R163). -/
def loadRejectedRecord (n : Nat) : FaultRecord where
  cause  := .loadRejected
  code   := Cause.loadRejected.code
  pc     := 0x200
  opcode := none
  addr   := some (lengthWord n)

/-- `Reset(image)` (70_reset_and_hazards.md R162, R163). The parameters stay, and so does the environment's supply of
random bytes (log entry 19). -/
def State.resetWith (s : State) (image : List Byte) : State :=
  let base : State := { State.initial s.cfg with rand := s.rand, draws := s.draws }
  if image.length ≤ maxImage then base.storeBytes 0x200 image
  else { base with fault := some (loadRejectedRecord image.length) }

/-! ## The transactions -/

/-- The transactions and output reads (00_scope.md R5, 10_state.md R38). -/
inductive Transaction where
  | reset (image : List Byte)
  | step (r : Byte)
  | tick
  | setKeys (k : Keypad)
  | setRun (f : RunFlag)
  | getRun
  | readFramebuffer
  | readSoundTimer
deriving DecidableEq, Repr

/-- What a transaction returns. -/
inductive Response where
  | done
  | stepped (report : StepReport)
  | tone (t : Option Bool)
  | runFlag (f : RunFlag)
  | framebuffer (fb : Framebuffer)
  | soundTimer (st : Byte)
  /-- the read raised a fault: UninitialisedRead, of `ReadSoundTimer` alone (log entry 17) -/
  | faulted (record : FaultRecord)
deriving DecidableEq, Repr

/-- The state a `Step(r)` leaves: that of `step` with r latched; a FAULTED or PAUSED core is left alone
(40_cycle.md R81). -/
def State.stepWith (s : State) (r : Byte) : State :=
  if s.active then
    match step { s with rand := r } with
    | .next t    => t
    | .fault _   => s
    | .refused _ => s
  else s

/-- What `ReadSoundTimer` returns: ST, or, where ST holds no value, the fault UninitialisedRead (10_state.md R38, R39,
60_exceptions.md R148). The core stays as it is: only a faulting step or a rejected `Reset` sets its fault record
(10_state.md R33; log entry 17). -/
def State.soundTimer (s : State) : Response :=
  match s.readSt with
  | .ok b    => .soundTimer b
  | .error t => .faulted (s.recordOf none t)

/-- The state after a transaction. Each is atomic (20_memory.md R60). `SetRun` does not touch the fault record
(10_state.md R34), and only `Reset` clears it (40_cycle.md R91). -/
def Transaction.apply : Transaction → State → State
  | .reset image, s     => s.resetWith image
  | .step r, s          => s.stepWith r
  | .tick, s            => s.tick
  | .setKeys k, s       => { s with keys := k }
  | .setRun f, s        => { s with run := f }
  | .getRun, s          => s
  | .readFramebuffer, s => s
  | .readSoundTimer, s  => s

/-- What the transaction returns, asked of the state before it. -/
def Transaction.response : Transaction → State → Response
  | .reset _, _         => .done
  | .step r, s          => .stepped (stepReport { s with rand := r })
  | .tick, s            => .tone s.tickTone
  | .setKeys _, _       => .done
  | .setRun _, _        => .done
  | .getRun, s          => .runFlag s.run
  | .readFramebuffer, s => .framebuffer s.fb
  | .readSoundTimer, s  => s.soundTimer

/-- The state after a sequence of transactions. -/
def applyAll : List Transaction → State → State
  | [], s      => s
  | t :: ts, s => applyAll ts (t.apply s)

/-- A frame in the driver's order (20_memory.md R61): STEPS_PER_FRAME steps, one per random byte of the list, the tick,
the output reads, the new key sample. The core does not enforce it. -/
def frameTransactions (rs : List Byte) (k : Keypad) : List Transaction :=
  rs.map .step ++ [.tick, .readFramebuffer, .readSoundTimer, .setKeys k]

end Sys2Proof.Machine
end

