-- ==== Sys2Proof/Safety.lean ====
section
/-! DEFINITION. The terms of the claims: a running core, the invariant, who may write what. -/

namespace Sys2Proof

/-- The general registers an instruction may write (10_state.md R23). -/
def Instr.mayWriteV (c : Config) (r : Reg) : Instr → Bool
  | .cls | .ret | .jp _ | .call _ | .sei _ _ | .snei _ _ | .se _ _ | .sne _ _ => false
  | .ldi x _ | .addi x _ | .rnd x _ => decide (r = x)
  | .ld x _ | .or x _ | .and x _ | .xor x _ => decide (r = x)
  | .add x _ | .sub x _ | .shl x _ | .subn x _ | .shr x _ => decide (r = x ∨ r = 15)
  | .ldidx _ | .ldf _ | .ldb _ | .stm _ => false
  | .drw _ _ _ => decide (r = 15)
  | .skp _ | .sknp _ | .lddtv _ | .ldstv _ => false
  | .ldvdt x | .ldk x => decide (r = x)
  | .addidx _ => decide (r = 15 ∧ c.indexFlagMode = .set)
  | .ldm x => decide (r ≤ x)

/-- The instructions that store to memory, FX33 and FX55 (20_memory.md R41). -/
def Instr.stores : Instr → Bool
  | .ldb _ | .stm _ => true
  | .cls | .ret | .jp _ | .call _ | .sei _ _ | .snei _ _ | .se _ _ | .sne _ _ => false
  | .ldi _ _ | .addi _ _ | .rnd _ _ | .ld _ _ | .or _ _ | .and _ _ | .xor _ _ => false
  | .add _ _ | .sub _ _ | .shl _ _ | .subn _ _ | .shr _ _ => false
  | .ldidx _ | .addidx _ | .ldf _ | .ldm _ | .drw _ _ _ => false
  | .skp _ | .sknp _ | .ldvdt _ | .ldk _ | .lddtv _ | .ldstv _ => false

end Sys2Proof

namespace Sys2Proof.Machine

/-- RUNNING (40_cycle.md R91). -/
abbrev State.Running (s : State) : Prop := s.fault = none ∧ s.run = .running

/-- The causes a configuration admits: each parameterised cause only under its parameter (60_exceptions.md R139). -/
def Cause.admittedBy (c : Config) : Cause → Bool
  | .stackOverflow | .stackUnderflow | .addressOutOfRange | .loadRejected => true
  | .keyIndexOutOfRange => decide (c.keyIndexPolicy = .fault)
  | .protectedWrite     => decide (c.lowWritePolicy = .fault)
  | .uninitialisedRead  => decide (c.initPolicy = .unspecified)
  | .aliasRefused       => decide (c.aliasMode = .fault)

/-- The invariant of the core, kept by every transaction. -/
structure State.Inv (s : State) : Prop where
  /-- memory keeps its canonical form, within 0x000..0xFFF (20_memory.md R40) -/
  memory : Memory.wf s.cfg.initPolicy.unlisted s.mem
  /-- PC never exceeds 0x1002 (10_state.md R26) -/
  pcBound : s.pc.toNat ≤ 0x1002
  /-- a live return address never exceeds 0x1000 (10_state.md R26) -/
  stackBound : ∀ (j : Nat) (h : j < 12), j < s.sp.val → (s.stack[j]).toNat ≤ 0x1000
  /-- a fault record holds its cause's code (10_state.md R33, 60_exceptions.md R139) -/
  faultCode : ∀ r, s.fault = some r → r.code = r.cause.code
  /-- a FAULTED core's PC is the record's pc (40_cycle.md R86) -/
  faultPc : ∀ r, s.fault = some r → r.pc = s.pc
  /-- a parameterised cause arises only under its parameter (60_exceptions.md R139) -/
  faultAdmitted : ∀ r, s.fault = some r → r.cause.admittedBy s.cfg = true

/-- The next step runs the instruction `i` (40_cycle.md R83, R84). -/
abbrev State.Fetches (s : State) (i : Instr) : Prop :=
  ∃ w, s.fetch = .ok w ∧ decodeWord w = .ok i

/-- *Parked*: RUNNING at a self-jump (60_exceptions.md R160). -/
abbrev State.Parked (s : State) : Prop :=
  s.Running ∧ ∃ nnn, s.Fetches (.jp nnn) ∧ addressOf nnn = s.pc

/-- The bit of the sprite row `s`, its left end at column `x0`, that falls on column `x`: bit 7 at the left, eight
columns wide, nothing elsewhere (44_display.md R127). -/
def rowBit (x0 : Nat) (s : Byte) (x : Fin 64) : Bool :=
  decide (x0 ≤ x.val ∧ x.val < x0 + 8) && s.getLsbD (7 - (x.val - x0))

/-- The bit of a sprite, its rows from row `y0` down, that falls on cell (x, y) (44_display.md R127). -/
def spriteBit (x0 y0 : Nat) (rows : List Byte) (x : Fin 64) (y : Fin 32) : Bool :=
  decide (y0 ≤ y.val) &&
    match rows[y.val - y0]? with
    | some s => rowBit x0 s x
    | none   => false

/-- The bit of the N-row sprite at I, drawn from the start point (x0, y0), that falls on cell (x, y): rows clip at the
bottom and columns at the right because no cell lies there (44_display.md R126, R127). -/
def State.spritePixel (s : State) (n x0 y0 : Nat) (x : Fin 64) (y : Fin 32) : Bool :=
  decide (y0 ≤ y.val ∧ y.val < y0 + n) &&
    match s.byteAt (s.i.toNat + (y.val - y0)) with
    | some b => rowBit x0 b x
    | none   => false

/-- After a plain register result: V[x] is `b`, PC is pc0 + 2, nothing else differs (10_state.md R26). -/
def State.wrote (s : State) (x : Reg) (b : Byte) : State :=
  { s with pc := s.pc + 2, v := s.v.set x.val b x.isLt, unset := s.unset.clearV x }

/-- After a register result with a flag: the registers are `v'`, V[x] and VF have values, PC is pc0 + 2, nothing else
differs. -/
def State.wroteFlagged (s : State) (x : Reg) (v' : Vector Byte 16) : State :=
  { s with pc := s.pc + 2, v := v', unset := (s.unset.clearV 15).clearV x }

/-- After a fault of the instruction at PC: the record is written, nothing else differs (40_cycle.md R86). -/
def State.faultedWith (s : State) (opcode : Option Word) (cause : Cause) (code : Byte) (addr : Option Word) : State :=
  { s with fault := some { cause := cause, code := code, pc := s.pc, opcode := opcode, addr := addr } }

/-- Run instructions one after another, as steps that decode to them would (40_cycle.md R89), stopping where one
raises a fault. -/
def execAll : List Instr → State → Host.Outcome State Fault Refusal
  | [], s => .next s
  | i :: is, s =>
    match exec i s with
    | .next t    => if t.fault = s.fault then execAll is t else .next t
    | .fault r   => .fault r
    | .refused r => .refused r

end Sys2Proof.Machine
end

