-- ==== Sys2Proof/Certificates/Slice0/Obligations.lean ====
section
/-! DEFINITION. The statements about the model. A statement about "every state" ranges over every configuration too,
since the parameters ride in the state. `valuelessV s x = false` and the like say that a register has
a value, which is so in every state under INIT_POLICY = zero. -/

open Sys2Proof Sys2Proof.Machine

/-! ## Encoding -/

/-- Every well-formed instruction, with every operand at every value its field admits, decodes from its own word
(30_encoding.md, sections 1 and 2). -/
def Obligations.DecodeOfEncodeIsIdentity : Prop :=
  ∀ i : Instr, i.wellFormed = true → decodeWord (encode i) = .ok i

/-- A word that decodes has no bit the decoder drops: encoding the instruction gives the word back, and the instruction
is well formed (30_encoding.md, sections 1 and 2). -/
def Obligations.EncodeOfDecodeIsTheWord : Prop :=
  ∀ (w : Word) (i : Instr), decodeWord w = .ok i → encode i = w ∧ i.wellFormed = true

/-- The decoder selects by `w AND mask = match` with the rows of the opcode table: what it answers matches its row, a
word that matches some row is answered, and a word that matches none is unimplemented. Rests on the spec's decision D3. -/
def Obligations.DecoderSelectsByMaskAndMatch : Prop :=
  (∀ (w : Word) (i : Instr), decodeWord w = .ok i → matchesRow w i = true) ∧
  (∀ (w : Word) (i : Instr), matchesRow w i = true → ∃ j, decodeWord w = .ok j) ∧
  (∀ w : Word, (∀ i : Instr, matchesRow w i = false) → decodeWord w = .error (.unimplemented w))

/-- The patterns of the table are pairwise disjoint: two instructions whose rows match one word are of the same row, that
is of the same constructor (`ctorIdx` is the constructor's place in `Instr`), and so have one mask and one pattern
(30_encoding.md, section 2, R74; the spec derives it from its R70 and R71). -/
def Obligations.PatternsOfTwoRowsNeverMatchOneWord : Prop :=
  ∀ (w : Word) (i j : Instr), matchesRow w i = true → matchesRow w j = true →
    i.ctorIdx = j.ctorIdx ∧ i.mask = j.mask ∧ i.pattern = j.pattern

/-- Words written out from the encodings of the table decode to their instructions (one of each family), and words the
table leaves out are unimplemented. -/
def Obligations.SampleWordsDecodeAsWritten : Prop :=
  decodeWord 0x00E0 = .ok .cls ∧ decodeWord 0x00EE = .ok .ret ∧ decodeWord 0x2ABC = .ok (.call 0xABC) ∧
  decodeWord 0x3342 = .ok (.sei 3 0x42) ∧ decodeWord 0x8126 = .ok (.shl 1 2) ∧ decodeWord 0x812E = .ok (.shr 1 2) ∧
  decodeWord 0xA300 = .ok (.ldidx 0x300) ∧ decodeWord 0xD12F = .ok (.drw 1 2 15) ∧ decodeWord 0xEBA1 = .ok (.sknp 11) ∧
  decodeWord 0xF365 = .ok (.ldm 3) ∧ decodeWord 0x5121 = .error (.unimplemented 0x5121) ∧
  decodeWord 0xB200 = .error (.unimplemented 0xB200)

/-! ## The step -/

/-- When the two bytes at PC, the first the high one, decode to an instruction, the step of a running core is that
instruction's execution, with nothing around it: the meaning itself moves PC past the word (log entry 11). -/
def Obligations.StepRunsTheDecodedInstruction : Prop :=
  ∀ (s : State) (high low : Byte) (i : Instr), s.Running → s.pc.toNat + 1 < 4096 →
    s.byteAt s.pc.toNat = some high → s.byteAt (s.pc.toNat + 1) = some low →
    decodeWord (high ++ low) = .ok i → step s = exec i s

/-- An unimplemented word changes nothing but PC, which moves past it, and is reported with its address. Rests on the
spec's decision D30. -/
def Obligations.UnimplementedWordOnlyAdvancesPc : Prop :=
  ∀ (s : State) (w : Word), s.Running → s.fetch = .ok w → decodeWord w = .error (.unimplemented w) →
    step s = .next { s with pc := s.pc + 2 } ∧ stepReport s = .unimplemented s.pc w

/-- A fetch that would touch an address at or above 4096 faults with no word and PC unmoved; below that the word at PC
is fetched, the first byte high, at odd addresses as at even ones. The record's form and that nothing else changes are
the spec's decisions D6 and D18, the absence of an alignment rule its D34. -/
def Obligations.FetchFaultsExactlyBeyondMemory : Prop :=
  (∀ s : State, s.Running → 4096 ≤ s.pc.toNat + 1 →
    step s = .next (s.faultedWith none .addressOutOfRange 3 (some (if 4096 ≤ s.pc.toNat then s.pc else 0x1000)))) ∧
  (∀ (s : State) (high low : Byte), s.pc.toNat + 1 < 4096 → s.byteAt s.pc.toNat = some high →
    s.byteAt (s.pc.toNat + 1) = some low → s.fetch = .ok (high ++ low))

/-- The gate: a FAULTED core's step changes nothing and returns its record (whatever the run flag), a PAUSED core's
changes nothing and returns NotRunning. Rests on the spec's decision D17; that the FAULTED step is the outcome `fault`
is the model's choice (log entry 12). -/
def Obligations.FaultedAndPausedCoresDoNotStep : Prop :=
  (∀ (s : State) (r : FaultRecord), s.fault = some r → step s = .fault (.faulted r) ∧ stepReport s = .faulted r) ∧
  (∀ s : State, s.fault = none → s.run = .paused → step s = .next s ∧ stepReport s = .notRunning)

/-- A step that faults commits nothing: the state is the one before it with the record set, which holds the cause's
number, the step's PC and the word fetched (none where the fetch itself faulted). Rests on the spec's decisions D6 and
D18. -/
def Obligations.FaultingStepCommitsNothing : Prop :=
  ∀ (s t : State) (r : FaultRecord), s.Running → step s = .next t → t.fault = some r →
    t = { s with fault := some r } ∧ r.pc = s.pc ∧
    r.code = (match r.cause with
      | .stackOverflow => 1 | .stackUnderflow => 2 | .addressOutOfRange => 3 | .keyIndexOutOfRange => 4
      | .protectedWrite => 5 | .loadRejected => 6 | .uninitialisedRead => 0x80 | .aliasRefused => 0x81) ∧
    r.opcode = (match s.fetch with | .ok w => some w | .error _ => none) ∧ stepReport s = .faulted r

/-- A parked core, RUNNING at a self-jump, is a fixed point of the step (60_exceptions.md, section 6). -/
def Obligations.ParkedCoreIsAFixedPoint : Prop :=
  ∀ s : State, s.Parked → step s = .next s ∧ stepReport s = .ok

/-! ## Invariants and whole-machine rules -/

/-- Every step keeps the invariant: memory canonical and within 4096 bytes, PC at most 0x1002, live return addresses at
most 0x1000, a fault record that names its cause's code, this PC and a cause its parameter admits. -/
def Obligations.StepKeepsInv : Prop :=
  ∀ s t : State, s.Inv → step s = .next t → t.Inv

/-- The reset state meets the invariant. -/
def Obligations.ResetStateMeetsInv : Prop := State.reset.Inv

/-- So does the state after every transaction of the interface: Reset with any image, Step with any random byte, Tick,
SetKeys, SetRun and the reads. -/
def Obligations.EveryTransactionKeepsInv : Prop :=
  ∀ (a : Transaction) (s : State), s.Inv → (a.apply s).Inv

/-- Every instruction answers a next state from every state, and that is either its effect, with the fault record as it
was, or the state before it with a fault record set. No instruction is refused and there is one mode (60_exceptions.md,
section 4). -/
def Obligations.EveryInstructionCompletesOrFaultsWhole : Prop :=
  ∀ (i : Instr) (s : State), ∃ t, exec i s = .next t ∧
    (t.fault = s.fault ∨ ∃ r, t = { s with fault := some r } ∧ r.pc = s.pc ∧ r.opcode = some (encode i))

/-- A step changes DT only by FX15 and ST only by FX18 (10_state.md section 6, 40_cycle.md section 8). -/
def Obligations.StepWritesTimersOnlyByFx15AndFx18 : Prop :=
  ∀ s t : State, step s = .next t →
    (t.dt ≠ s.dt → ∃ x, s.Fetches (.lddtv x)) ∧ (t.st ≠ s.st → ∃ x, s.Fetches (.ldstv x))

/-- A step changes a cell of the framebuffer only by 00E0 or DXYN (10_state.md section 7). -/
def Obligations.StepWritesFramebufferOnlyByClearAndDraw : Prop :=
  ∀ s t : State, step s = .next t → t.fb ≠ s.fb →
    s.Fetches .cls ∨ ∃ x y n, s.Fetches (.drw x y n)

/-- Every instruction but FX33 and FX55 leaves every byte of memory as it was (20_memory.md section 1). -/
def Obligations.NonStoringInstructionsKeepEveryByte : Prop :=
  ∀ (i : Instr) (s t : State), exec i s = .next t → i.stores = false → ∀ a, t.byteAt a = s.byteAt a

/-- The frame of the stores FX33 and FX55: every byte outside the stored ones, which start at I, is as it was, and so is
everything but PC, memory and the fault record. I unchanged is the spec's decision D10. -/
def Obligations.StoresKeepEverythingElse : Prop :=
  ∀ (x : Reg) (s t : State), Memory.wf s.cfg.initPolicy.unlisted s.mem →
    (exec (.ldb x) s = .next t → (∀ a, a < s.i.toNat ∨ s.i.toNat + 3 ≤ a → t.byteAt a = s.byteAt a) ∧
      t = { s with pc := t.pc, mem := t.mem, fault := t.fault }) ∧
    (exec (.stm x) s = .next t → (∀ a, a < s.i.toNat ∨ s.i.toNat + (x.val + 1) ≤ a → t.byteAt a = s.byteAt a) ∧
      t = { s with pc := t.pc, mem := t.mem, fault := t.fault })

/-- Only 2NNN and 00EE change SP, and only 2NNN changes the stack: a return leaves the entry it pops (10_state.md
section 5; the last is the spec's decision D26). -/
def Obligations.OnlyCallAndReturnTouchTheStack : Prop :=
  ∀ (i : Instr) (s t : State), exec i s = .next t →
    (t.sp ≠ s.sp → i = .ret ∨ ∃ nnn, i = .call nnn) ∧ (t.stack ≠ s.stack → ∃ nnn, i = .call nnn)

/-- Only ANNN, FX1E and FX29 change I: no memory access moves it (10_state.md section 3; the spec's decision D10). -/
def Obligations.OnlyIndexInstructionsWriteI : Prop :=
  ∀ (i : Instr) (s t : State), exec i s = .next t → t.i ≠ s.i →
    (∃ nnn, i = .ldidx nnn) ∨ (∃ x, i = .addidx x) ∨ ∃ x, i = .ldf x

/-- An instruction changes no general register but those of its row of the writers' table, VF among them only where the
row names the flag (10_state.md section 2; VF kept by 8XY1-8XY3 is the spec's decision D25, by FX1E its D9). -/
def Obligations.OnlyListedRegistersAreWritten : Prop :=
  ∀ (i : Instr) (s t : State) (r : Reg), exec i s = .next t → i.mayWriteV s.cfg r = false → t.v[r] = s.v[r]

/-- No instruction changes the keypad latch, the run flag or a parameter, and none but CXNN takes a random byte
(10_state.md sections 8 and 10, 40_cycle.md section 3). The parameters in State and the supply of random bytes are the
model's (log entries 2 and 3). -/
def Obligations.InstructionsLeaveInputsAndParametersAlone : Prop :=
  ∀ (i : Instr) (s t : State), exec i s = .next t →
    t.keys = s.keys ∧ t.run = s.run ∧ t.cfg = s.cfg ∧
    ((∀ x nn, i ≠ .rnd x nn) → t.rand = s.rand ∧ t.draws = s.draws)

/-- The random byte is read by CXNN alone: every other instruction does the same whatever byte is supplied (40_cycle.md
section 3). -/
def Obligations.RandomByteMattersToCxnnAlone : Prop :=
  ∀ (i : Instr) (s t : State) (r : Byte), (∀ x nn, i ≠ .rnd x nn) → exec i s = .next t →
    exec i { s with rand := r } = .next { t with rand := r }

/-- ST is read by no instruction: two states that differ in ST alone (its value or its having one) go to states that
differ in ST alone (10_state.md section 6). -/
def Obligations.SoundTimerIsReadByNoInstruction : Prop :=
  ∀ (i : Instr) (s t : State) (b : Byte) (m : Bool), exec i s = .next t →
    ∃ t', exec i { s with st := b, unset := { s.unset with st := m } } = .next t' ∧
      { t' with st := t.st, unset := { t'.unset with st := t.unset.st } } = t

/-- The stack entries at and above SP are unobservable: two states that agree on the live entries and everything else go
to states that agree on the live entries and everything else (10_state.md section 5; the spec's decision D26). -/
def Obligations.DeadStackEntriesAreUnobservable : Prop :=
  ∀ (i : Instr) (s t : State) (k : Vector Word 12), exec i s = .next t →
    (∀ (j : Nat) (h : j < 12), j < s.sp.val → k[j] = s.stack[j]) →
    ∃ t', exec i { s with stack := k } = .next t' ∧ { t' with stack := t.stack } = t ∧
      ∀ (j : Nat) (h : j < 12), j < t.sp.val → t'.stack[j] = t.stack[j]

/-- A FAULTED core stays FAULTED with the same record, and with its registers, stack, timers, memory and framebuffer,
through every sequence of transactions without a Reset (60_exceptions.md section 3; the spec's decisions D21, D31, D32). -/
def Obligations.FaultedIsTerminalUntilReset : Prop :=
  ∀ (as : List Transaction) (s : State) (r : FaultRecord), s.fault = some r →
    (∀ image, .reset image ∉ as) →
    applyAll as s = { s with run := (applyAll as s).run, keys := (applyAll as s).keys }

/-! ## Loads, logic, arithmetic, shifts, random (42_alu.md) -/

/-- 7XNN, encoded 0x7000 | X<<8 | NN, adds modulo 256 and sets no flag. -/
def Obligations.AddImmediateWrapsWithoutFlag : Prop :=
  ∀ (x : Reg) (nn : Byte), encode (.addi x nn) = 0x7000 ||| BitVec.ofNat 16 x.val <<< 8 ||| nn.setWidth 16 ∧
    ∀ s : State, s.valuelessV x = false →
      exec (.addi x nn) s = .next (s.wrote x (BitVec.ofNat 8 ((s.v[x].toNat + nn.toNat) % 256)))

/-- 6XNN, encoded 0x6000 | X<<8 | NN, writes its literal and 8XY0, encoded 0x8000 | X<<8 | Y<<4, the value of V[Y] to
V[X], VF as any register, and nothing else but PC changes. -/
def Obligations.RegisterLoadsWriteTheirOperand : Prop :=
  ∀ (x y : Reg) (nn : Byte),
    encode (.ldi x nn) = 0x6000 ||| BitVec.ofNat 16 x.val <<< 8 ||| nn.setWidth 16 ∧
    encode (.ld x y) = 0x8000 ||| BitVec.ofNat 16 x.val <<< 8 ||| BitVec.ofNat 16 y.val <<< 4 ∧
    ∀ s : State, exec (.ldi x nn) s = .next (s.wrote x nn) ∧
      (s.valuelessV y = false → exec (.ld x y) s = .next (s.wrote x s.v[y]))

/-- 8XY1, 8XY2 and 8XY3 write the bitwise OR, AND and XOR of V[X] and V[Y] to V[X]; VF is unchanged unless X = 0xF, by
the spec's decision D25. -/
def Obligations.LogicWritesTheBitwiseResult : Prop :=
  ∀ (x y : Reg) (s : State), s.valuelessV x = false → s.valuelessV y = false →
    (∃ b : Byte, exec (.or x y) s = .next (s.wrote x b) ∧
      ∀ k < 8, b.getLsbD k = (s.v[x].getLsbD k || s.v[y].getLsbD k)) ∧
    (∃ b : Byte, exec (.and x y) s = .next (s.wrote x b) ∧
      ∀ k < 8, b.getLsbD k = (s.v[x].getLsbD k && s.v[y].getLsbD k)) ∧
    (∃ b : Byte, exec (.xor x y) s = .next (s.wrote x b) ∧
      ∀ k < 8, b.getLsbD k = (s.v[x].getLsbD k ^^ s.v[y].getLsbD k))

/-- 8XY4: V[X] is the sum modulo 256 and VF the carry. With X = 0xF the last write of the order ALIAS_MODE names stands;
under `fault` the aliasing forms are refused. The aliasing cases are the spec's decision D2 (log entry 7). -/
def Obligations.AddWritesSumAndCarry : Prop :=
  ∀ (x y : Reg) (s : State), s.valuelessV x = false → s.valuelessV y = false →
    let sum := s.v[x].toNat + s.v[y].toNat
    let flag : Byte := if sum > 255 then 1 else 0
    let low : Byte := BitVec.ofNat 8 (sum % 256)
    match s.cfg.aliasMode with
    | .sequential => exec (.add x y) s = .next (s.wroteFlagged x ((s.v.set 15 flag).set x.val low x.isLt))
    | .flagLast   => exec (.add x y) s = .next (s.wroteFlagged x ((s.v.set x.val low x.isLt).set 15 flag))
    | .fault      => exec (.add x y) s = .next (if x = 15 ∨ y = 15
        then s.faultedWith (some (encode (.add x y))) .aliasRefused 0x81 none
        else s.wroteFlagged x ((s.v.set 15 flag).set x.val low x.isLt))

/-- 8XY5: VF is 1 exactly when V[X] ≥ V[Y] and V[X] the difference modulo 256; with VF as an operand or as the
destination, the corner cases the spec lists for each ALIAS_MODE (its decision D2; log entry 7). -/
def Obligations.SubtractWritesDifferenceAndNoBorrow : Prop :=
  ∀ (x y : Reg) (s : State), s.valuelessV x = false → s.valuelessV y = false →
    let a := s.v[x]
    let b := s.v[y]
    let flag : Byte := if a.toNat ≥ b.toNat then 1 else 0
    let diff : Byte := BitVec.ofNat 8 ((256 + a.toNat - b.toNat) % 256)
    (x ≠ 15 → y ≠ 15 → exec (.sub x y) s = .next (s.wroteFlagged x ((s.v.set 15 flag).set x.val diff x.isLt))) ∧
    (x = 15 ∨ y = 15 →
      match s.cfg.aliasMode with
      | .sequential => exec (.sub x y) s = .next (s.wroteFlagged x
          (if x = 15 then s.v.set 15 (if y = 15 then 0 else flag - b)
           else (s.v.set 15 flag).set x.val (a - flag) x.isLt))
      | .flagLast   => exec (.sub x y) s = .next (s.wroteFlagged x
          (if x = 15 then s.v.set 15 flag else (s.v.set 15 flag).set x.val diff x.isLt))
      | .fault      => exec (.sub x y) s =
          .next (s.faultedWith (some (encode (.sub x y))) .aliasRefused 0x81 none))

/-- 8XY7: VF is 1 exactly when V[Y] ≥ V[X] and V[X] becomes V[Y] - V[X] modulo 256; with VF as an operand or as the
destination, the corner cases the spec lists for each ALIAS_MODE (its decision D2; log entry 7). -/
def Obligations.ReverseSubtractWritesDifferenceAndNoBorrow : Prop :=
  ∀ (x y : Reg) (s : State), s.valuelessV x = false → s.valuelessV y = false →
    let a := s.v[x]
    let b := s.v[y]
    let flag : Byte := if b.toNat ≥ a.toNat then 1 else 0
    let diff : Byte := BitVec.ofNat 8 ((256 + b.toNat - a.toNat) % 256)
    (x ≠ 15 → y ≠ 15 → exec (.subn x y) s = .next (s.wroteFlagged x ((s.v.set 15 flag).set x.val diff x.isLt))) ∧
    (x = 15 ∨ y = 15 →
      match s.cfg.aliasMode with
      | .sequential => exec (.subn x y) s = .next (s.wroteFlagged x
          (if x = 15 then s.v.set 15 (if y = 15 then 0 else b - flag)
           else (s.v.set 15 flag).set x.val (flag - a) x.isLt))
      | .flagLast   => exec (.subn x y) s = .next (s.wroteFlagged x
          (if x = 15 then s.v.set 15 flag else (s.v.set 15 flag).set x.val diff x.isLt))
      | .fault      => exec (.subn x y) s =
          .next (s.faultedWith (some (encode (.subn x y))) .aliasRefused 0x81 none))

/-- 8XY6 shifts V[Y], not V[X], left by one into V[X]; VF is its bit 7. With X = 0xF: VF is twice the flag under
`sequential` and the flag under `flag_last` (the spec's decision D2; log entry 7). -/
def Obligations.ShiftLeftTakesTheSourceFromVy : Prop :=
  ∀ (x y : Reg) (s : State), s.valuelessV y = false →
    let b := s.v[y]
    let flag : Byte := if b.toNat ≥ 128 then 1 else 0
    let out : Byte := BitVec.ofNat 8 (2 * b.toNat % 256)
    if s.cfg.aliasMode = .fault ∧ (x = 15 ∨ y = 15) then
      exec (.shl x y) s = .next (s.faultedWith (some (encode (.shl x y))) .aliasRefused 0x81 none)
    else if x = 15 then
      exec (.shl x y) s = .next (s.wroteFlagged x
        (s.v.set 15 (if s.cfg.aliasMode = .flagLast then flag else if b.toNat ≥ 128 then 2 else 0)))
    else exec (.shl x y) s = .next (s.wroteFlagged x ((s.v.set 15 flag).set x.val out x.isLt))

/-- 8XYE shifts V[Y] right by one into V[X], bit 7 of the result 0; VF is its bit 0. With X = 0xF: VF is 0 under
`sequential` and the flag under `flag_last` (the spec's decision D2; log entry 7). -/
def Obligations.ShiftRightTakesTheSourceFromVy : Prop :=
  ∀ (x y : Reg) (s : State), s.valuelessV y = false →
    let b := s.v[y]
    let flag : Byte := BitVec.ofNat 8 (b.toNat % 2)
    let out : Byte := BitVec.ofNat 8 (b.toNat / 2)
    if s.cfg.aliasMode = .fault ∧ (x = 15 ∨ y = 15) then
      exec (.shr x y) s = .next (s.faultedWith (some (encode (.shr x y))) .aliasRefused 0x81 none)
    else if x = 15 then
      exec (.shr x y) s = .next (s.wroteFlagged x (s.v.set 15 (if s.cfg.aliasMode = .flagLast then flag else 0)))
    else exec (.shr x y) s = .next (s.wroteFlagged x ((s.v.set 15 flag).set x.val out x.isLt))

/-- Under ALIAS_MODE = fault the five flag instructions with X or Y = 0xF fault before any read or write, even of a
register with no value; and AliasRefused arises in no other way. Rests on the spec's decisions D2 and, for the order,
D18 (60_exceptions.md section 2, R149); that it comes before a read of a register with no value is the model's reading
of that order (log entry 16). -/
def Obligations.AliasRefusedExactlyUnderFaultMode : Prop :=
  (∀ (x y : Reg) (s : State) (i : Instr),
    i ∈ [Instr.add x y, Instr.sub x y, Instr.shl x y, Instr.subn x y, Instr.shr x y] →
    s.cfg.aliasMode = .fault → x = 15 ∨ y = 15 →
    exec i s = .next (s.faultedWith (some (encode i)) .aliasRefused 0x81 none)) ∧
  (∀ (i : Instr) (s t : State) (r : FaultRecord), s.fault = none → exec i s = .next t → t.fault = some r →
    r.cause = .aliasRefused → s.cfg.aliasMode = .fault ∧ ∃ x y, (x = 15 ∨ y = 15) ∧
      i ∈ [Instr.add x y, Instr.sub x y, Instr.shl x y, Instr.subn x y, Instr.shr x y])

/-- CXNN writes the supplied random byte masked with NN, whatever the byte; the next byte is fresh. The supply is the
model's (log entry 3), the byte as an input the spec's decision D23. -/
def Obligations.RandomWritesTheMaskedByte : Prop :=
  ∀ (x : Reg) (nn r : Byte) (s : State), exec (.rnd x nn) { s with rand := r } =
    .next { s.wrote x (r &&& nn) with rand := Config.randomByte s.draws, draws := s.draws + 1 }

/-! ## Control transfer (41_control_flow.md) -/

/-- 1NNN, encoded 0x1000 | NNN, puts its 12-bit target in PC and changes nothing else. -/
def Obligations.JumpSetsPcToItsTarget : Prop :=
  ∀ nnn : BitVec 12, encode (.jp nnn) = 0x1000 ||| nnn.setWidth 16 ∧
    ∀ s : State, ∃ t, exec (.jp nnn) s = .next t ∧ t.pc.toNat = nnn.toNat ∧ t = { s with pc := t.pc }

/-- 2NNN, encoded 0x2000 | NNN, pushes pc0 + 2 and jumps; with SP = 12 it raises StackOverflow and nothing changes. -/
def Obligations.CallPushesTheReturnAddress : Prop :=
  ∀ nnn : BitVec 12, encode (.call nnn) = 0x2000 ||| nnn.setWidth 16 ∧ ∀ s : State,
    (∀ h : s.sp.val < 12, exec (.call nnn) s = .next { s with
      stack := s.stack.set s.sp.val (s.pc + 2) h, sp := ⟨s.sp.val + 1, by omega⟩, pc := nnn.setWidth 16 }) ∧
    (s.sp = 12 → ∃ r, exec (.call nnn) s = .next { s with fault := some r } ∧ r.cause = .stackOverflow)

/-- 00EE, encoded as exactly 0x00EE, pops PC and leaves the entry; with SP = 0 it raises StackUnderflow and nothing
changes. -/
def Obligations.ReturnPopsPc : Prop :=
  encode .ret = 0x00EE ∧ ∀ s : State,
    (∀ h : s.sp.val ≠ 0, exec .ret s = .next { s with
      pc := s.stack[s.sp.val - 1]'(by omega), sp := ⟨s.sp.val - 1, by omega⟩ }) ∧
    (s.sp = 0 → ∃ r, exec .ret s = .next { s with fault := some r } ∧ r.cause = .stackUnderflow)

/-- A call below capacity, then a return with the same stack, comes back to the instruction after the call, whatever the
code between did to the rest of the state (the source's test property, 95_test_vectors.md E8). -/
def Obligations.CallThenReturnResumesAfterTheCall : Prop :=
  ∀ (nnn : BitVec 12) (s t u : State), s.sp.val < 12 → exec (.call nnn) s = .next t →
    u.stack = t.stack → u.sp = t.sp → exec .ret u = .next { u with pc := s.pc + 2, sp := s.sp }

/-- From any depth, calls fill the stack to 12 without a fault, and one call more overflows: from SP = 0 the 13th (the
source's test property, 95_test_vectors.md E9). -/
def Obligations.CallBeyondTwelveOverflows : Prop :=
  ∀ (targets : List (BitVec 12)) (s : State), s.fault = none → s.sp.val + targets.length ≤ 12 →
    ∃ t, execAll (targets.map .call) s = .next t ∧ t.fault = none ∧ t.sp.val = s.sp.val + targets.length ∧
      (t.sp = 12 → ∀ nnn, exec (.call nnn) t =
        .next (t.faultedWith (some (encode (.call nnn))) .stackOverflow 1 none))

/-- The four conditional skips, each with its encoding: PC is pc0 + 4 when the condition holds, else pc0 + 2, and nothing
else changes. -/
def Obligations.SkipsMovePcByTheirCondition : Prop :=
  ∀ (x y : Reg) (nn : Byte),
    encode (.sei x nn) = 0x3000 ||| BitVec.ofNat 16 x.val <<< 8 ||| nn.setWidth 16 ∧
    encode (.snei x nn) = 0x4000 ||| BitVec.ofNat 16 x.val <<< 8 ||| nn.setWidth 16 ∧
    encode (.se x y) = 0x5000 ||| BitVec.ofNat 16 x.val <<< 8 ||| BitVec.ofNat 16 y.val <<< 4 ∧
    encode (.sne x y) = 0x9000 ||| BitVec.ofNat 16 x.val <<< 8 ||| BitVec.ofNat 16 y.val <<< 4 ∧
    ∀ s : State, s.valuelessV x = false →
    exec (.sei x nn) s = .next { s with pc := if s.v[x] = nn then s.pc + 4 else s.pc + 2 } ∧
    exec (.snei x nn) s = .next { s with pc := if s.v[x] = nn then s.pc + 2 else s.pc + 4 } ∧
    (s.valuelessV y = false →
      exec (.se x y) s = .next { s with pc := if s.v[x] = s.v[y] then s.pc + 4 else s.pc + 2 } ∧
      exec (.sne x y) s = .next { s with pc := if s.v[x] = s.v[y] then s.pc + 2 else s.pc + 4 })

/-! ## Index register and memory transfer (43_index_memory.md) -/

/-- ANNN, encoded 0xA000 | NNN, puts NNN in I, and FX29, encoded 0xF029 | X<<8, puts 0x050 + V[X]·5 there, V[X] not
masked; nothing else but PC changes. -/
def Obligations.IndexLoadsGiveTheirAddress : Prop :=
  (∀ nnn : BitVec 12, encode (.ldidx nnn) = 0xA000 ||| nnn.setWidth 16) ∧
  (∀ x : Reg, encode (.ldf x) = 0xF029 ||| BitVec.ofNat 16 x.val <<< 8) ∧
  (∀ (nnn : BitVec 12) (s : State), ∃ t, exec (.ldidx nnn) s = .next t ∧ t.i.toNat = nnn.toNat ∧
    t = { s with pc := s.pc + 2, i := t.i, unset := { s.unset with i := false } }) ∧
  (∀ (x : Reg) (s : State), s.valuelessV x = false → ∃ t, exec (.ldf x) s = .next t ∧
    t.i.toNat = 0x050 + s.v[x].toNat * 5 ∧
    t = { s with pc := s.pc + 2, i := t.i, unset := { s.unset with i := false } })

/-- FX1E adds V[X] to I modulo 65536; in mode `set` VF is 1 exactly when the unreduced sum exceeds 0xFFF, in mode
`unchanged` it stays. The reduction and the modes are the spec's decisions D8 and D9 (log entry 8). -/
def Obligations.AddToIndexWrapsAndFlags : Prop :=
  ∀ (x : Reg) (s : State), s.valuelessI = false → s.valuelessV x = false →
    let sum := s.i.toNat + s.v[x].toNat
    let u : State := { s with pc := s.pc + 2, i := BitVec.ofNat 16 (sum % 65536), unset := { s.unset with i := false } }
    match s.cfg.indexFlagMode with
    | .set       => exec (.addidx x) s = .next { u with
        v := s.v.set 15 (if sum > 0xFFF then 1 else 0), unset := u.unset.clearV 15 }
    | .unchanged => exec (.addidx x) s = .next u

/-- FX33 stores the hundreds, tens and units of V[X] at I, I + 1 and I + 2, every other byte as it was; it faults, storing
nothing, when I + 2 is beyond memory, or, under LOW_WRITE_POLICY = fault, when I is below 0x200. Those checks are the
spec's decisions D5, D7 and D16. -/
def Obligations.DecimalStoreWritesThreeDigits : Prop :=
  ∀ (x : Reg) (s : State), s.valuelessV x = false → s.valuelessI = false →
    Memory.wf s.cfg.initPolicy.unlisted s.mem →
    if s.i.toNat + 2 ≥ 4096 then exec (.ldb x) s = .next (s.faultedWith (some (encode (.ldb x))) .addressOutOfRange 3
      (some (BitVec.ofNat 16 (max s.i.toNat 0x1000))))
    else if s.cfg.lowWritePolicy = .fault ∧ s.i.toNat < 0x200 then
      exec (.ldb x) s = .next (s.faultedWith (some (encode (.ldb x))) .protectedWrite 5 (some s.i))
    else ∃ t, exec (.ldb x) s = .next t ∧ t = { s with pc := s.pc + 2, mem := t.mem } ∧
      ∃ h d u : Byte, h.toNat ≤ 2 ∧ d.toNat ≤ 9 ∧ u.toNat ≤ 9 ∧ 100 * h.toNat + 10 * d.toNat + u.toNat = s.v[x].toNat ∧
        ∀ a, t.byteAt a = if a = s.i.toNat then some h else if a = s.i.toNat + 1 then some d
          else if a = s.i.toNat + 2 then some u else s.byteAt a

/-- FX55 stores V[0..X] at I, I + 1, …, I + X, every other byte and I as they were; it faults, storing nothing, when
I + X is beyond memory, or, under LOW_WRITE_POLICY = fault, when I is below 0x200. The checks and I are the spec's
decisions D5, D7, D10 and D16. -/
def Obligations.RegisterStoreWritesTheRange : Prop :=
  ∀ (x : Reg) (s : State), s.valuelessI = false → Memory.wf s.cfg.initPolicy.unlisted s.mem →
    if s.i.toNat + x.val ≥ 4096 then exec (.stm x) s = .next (s.faultedWith (some (encode (.stm x))) .addressOutOfRange 3
      (some (BitVec.ofNat 16 (max s.i.toNat 0x1000))))
    else if s.cfg.lowWritePolicy = .fault ∧ s.i.toNat < 0x200 then
      exec (.stm x) s = .next (s.faultedWith (some (encode (.stm x))) .protectedWrite 5 (some s.i))
    else (∀ r : Reg, r ≤ x → s.valuelessV r = false) →
      ∃ t, exec (.stm x) s = .next t ∧ t = { s with pc := s.pc + 2, mem := t.mem } ∧
        (∀ r : Reg, r ≤ x → t.byteAt (s.i.toNat + r.val) = some s.v[r]) ∧
        ∀ a, a < s.i.toNat ∨ s.i.toNat + x.val < a → t.byteAt a = s.byteAt a

/-- FX65 loads V[0..X] from I, I + 1, …, I + X, the registers above X and I as they were; it faults, loading nothing, when
I + X is beyond memory. The check and I are the spec's decisions D5, D7 and D10. -/
def Obligations.RegisterLoadReadsTheRange : Prop :=
  ∀ (x : Reg) (s : State), s.valuelessI = false →
    if s.i.toNat + x.val ≥ 4096 then exec (.ldm x) s = .next (s.faultedWith (some (encode (.ldm x))) .addressOutOfRange 3
      (some (BitVec.ofNat 16 (max s.i.toNat 0x1000))))
    else (∀ k ≤ x.val, s.byteAt (s.i.toNat + k) ≠ none) →
      ∃ t, exec (.ldm x) s = .next t ∧
        t = { s with pc := s.pc + 2, v := t.v, unset := { s.unset with v := t.unset.v } } ∧
        ∀ r : Reg, (r ≤ x → some t.v[r] = s.byteAt (s.i.toNat + r.val) ∧ t.unset.v[r] = false) ∧
          (x < r → t.v[r] = s.v[r] ∧ t.unset.v[r] = s.unset.v[r])

/-- What FX55 stored, FX65 at the same I brings back: V[0..X] are what they were, from any state with the same memory and
I, and I is unchanged throughout (the source's test property, 95_test_vectors.md E10; the spec's decision D10). -/
def Obligations.StoreThenLoadRestoresRegisters : Prop :=
  ∀ (x : Reg) (s t u w : State), Memory.wf s.cfg.initPolicy.unlisted s.mem →
    exec (.stm x) s = .next t → s.fault = none → t.fault = none →
    u.mem = t.mem → u.cfg = t.cfg → u.i = t.i → u.fault = none →
    exec (.ldm x) u = .next w → w.fault = none →
    w.i = s.i ∧ ∀ r : Reg, r ≤ x → w.v[r] = s.v[r]

/-! ## Framebuffer (44_display.md) -/

/-- 00E0, encoded as exactly 0x00E0, makes every cell false, whatever was there, and changes nothing else but PC. -/
def Obligations.ClearScreenClearsEveryCell : Prop :=
  encode .cls = 0x00E0 ∧ ∀ s : State, ∃ t, exec .cls s = .next t ∧ (∀ (x : Fin 64) (y : Fin 32), (t.fb[y])[x] = false) ∧
    t = { s with pc := s.pc + 2, fb := t.fb }

/-- DXYN with N ≥ 1: every cell is XORed with the sprite's bit there, VF is 1 exactly when some 1-bit falls on a true
cell, and nothing else but PC changes; when I + N - 1 is beyond memory it faults and draws nothing, clipped rows counted.
With N = 0 nothing is drawn or read and VF is 0. The check of clipped rows, the coordinates' order and N = 0 are the
spec's decisions D7 and D13; that clipped rows need no value is the model's (log entry 15). -/
def Obligations.DrawXorsTheSpriteAndFlagsCollision : Prop :=
  ∀ (x y : Reg) (n : Nat) (s : State), s.valuelessV x = false → s.valuelessV y = false →
    let x0 := s.v[x].toNat % 64
    let y0 := s.v[y].toNat % 32
    (n = 0 → exec (.drw x y n) s = .next (s.wrote 15 0)) ∧
    (1 ≤ n → s.valuelessI = false →
      if s.i.toNat + n - 1 ≥ 4096 then exec (.drw x y n) s = .next (s.faultedWith (some (encode (.drw x y n)))
        .addressOutOfRange 3 (some (BitVec.ofNat 16 (max s.i.toNat 0x1000))))
      else (∀ k, k < n → y0 + k < 32 → s.byteAt (s.i.toNat + k) ≠ none) →
        ∃ t, exec (.drw x y n) s = .next t ∧
          (∀ (cx : Fin 64) (cy : Fin 32), (t.fb[cy])[cx] = ((s.fb[cy])[cx] ^^ s.spritePixel n x0 y0 cx cy)) ∧
          (t.v[(15 : Reg)] = 1 ↔
            ∃ (cx : Fin 64) (cy : Fin 32), s.spritePixel n x0 y0 cx cy = true ∧ (s.fb[cy])[cx] = true) ∧
          (t.v[(15 : Reg)] = 0 ∨ t.v[(15 : Reg)] = 1) ∧
          t = { s.wrote 15 t.v[(15 : Reg)] with fb := t.fb })

/-- Drawing the same sprite at the same start point a second time restores every cell. The second draw's VF is 1 exactly
when some 1-bit of the sprite falls on a cell of the screen that was false before the first draw: the first draw has made
such a cell true. On a blank screen that is R128's "at least one 1-bit falls on a drawn cell"; where the cell was true
before, R126's algorithm gives no second collision, and the model follows R126 (log entry 27). -/
def Obligations.DrawingTwiceRestoresTheScreen : Prop :=
  ∀ (x y x' y' : Reg) (n : Nat) (s t u w : State), s.fault = none → u.fault = none →
    exec (.drw x y n) s = .next t → t.fault = none → exec (.drw x' y' n) u = .next w → w.fault = none →
    u.fb = t.fb → u.i = s.i → (∀ a, u.byteAt a = s.byteAt a) →
    u.v[x'].toNat % 64 = s.v[x].toNat % 64 → u.v[y'].toNat % 32 = s.v[y].toNat % 32 →
    w.fb = s.fb ∧ (w.v[(15 : Reg)] = 1 ↔ ∃ (cx : Fin 64) (cy : Fin 32),
      s.spritePixel n (s.v[x].toNat % 64) (s.v[y].toNat % 32) cx cy = true ∧ (s.fb[cy])[cx] = false)

/-! ## Keypad and timers (45_keypad_timers.md) -/

/-- EX9E skips when key V[X] is pressed and EXA1 when it is not; an index above 0xF faults or is masked, as
KEY_INDEX_POLICY says (the spec's decision D11; log entry 9). -/
def Obligations.KeySkipsFollowTheLatch : Prop :=
  ∀ (x : Reg) (s : State), s.valuelessV x = false →
    if s.v[x].toNat > 15 ∧ s.cfg.keyIndexPolicy = .fault then
      exec (.skp x) s = .next (s.faultedWith (some (encode (.skp x))) .keyIndexOutOfRange 4
        (some (BitVec.ofNat 16 s.v[x].toNat))) ∧
      exec (.sknp x) s = .next (s.faultedWith (some (encode (.sknp x))) .keyIndexOutOfRange 4
        (some (BitVec.ofNat 16 s.v[x].toNat)))
    else ∀ k : Reg, k.val = s.v[x].toNat % 16 →
      exec (.skp x) s = .next { s with pc := if s.keys[k] = true then s.pc + 4 else s.pc + 2 } ∧
      exec (.sknp x) s = .next { s with pc := if s.keys[k] = true then s.pc + 2 else s.pc + 4 }

/-- FX0A with no key pressed leaves the state as it is, so the next step runs it again; with a key pressed it writes the
lowest pressed index and goes on (45_keypad_timers.md section 2, R134). That the level is tested and the lowest key taken
is the spec's decision D12. -/
def Obligations.WaitForKeyTakesTheLowestPressed : Prop :=
  ∀ (x : Reg) (s : State),
    ((∀ k : Reg, s.keys[k] = false) → exec (.ldk x) s = .next s) ∧
    (∀ k : Reg, s.keys[k] = true → (∀ j : Reg, j < k → s.keys[j] = false) →
      exec (.ldk x) s = .next (s.wrote x (BitVec.ofNat 8 k.val)))

/-- FX07, encoded 0xF007 | X<<8, copies DT to V[X]; FX15, encoded 0xF015 | X<<8, copies V[X] to DT, and FX18, encoded
0xF018 | X<<8, copies it to ST; nothing else but PC changes (45_keypad_timers.md section 2, R133, R135 and R136). -/
def Obligations.TimerInstructionsCopyTheirRegister : Prop :=
  ∀ x : Reg,
    encode (.ldvdt x) = 0xF007 ||| BitVec.ofNat 16 x.val <<< 8 ∧
    encode (.lddtv x) = 0xF015 ||| BitVec.ofNat 16 x.val <<< 8 ∧
    encode (.ldstv x) = 0xF018 ||| BitVec.ofNat 16 x.val <<< 8 ∧
    ∀ s : State,
    (s.valuelessDt = false → exec (.ldvdt x) s = .next (s.wrote x s.dt)) ∧
    (s.valuelessV x = false →
      exec (.lddtv x) s = .next { s with pc := s.pc + 2, dt := s.v[x], unset := { s.unset with dt := false } } ∧
      exec (.ldstv x) s = .next { s with pc := s.pc + 2, st := s.v[x], unset := { s.unset with st := false } })

/-- Over n ticks of a running core each timer falls by n, floored at 0, and nothing else changes; the tone comes on the
tick that takes ST from 1 to 0 and on no other. Not RUNNING, a tick does nothing and gives no tone (the spec's decisions
D19 and D32). For a timer with no value, under INIT_POLICY = unspecified, the clauses on DT and ST are about the number
behind the mark, which moves while the mark stays: the model's choice (log entry 17). -/
def Obligations.TicksCountDownToZeroAndToneOnce : Prop :=
  (∀ (n : Nat) (s : State), s.Running →
    let t := applyAll (List.replicate n .tick) s
    t.dt.toNat = s.dt.toNat - n ∧ t.st.toNat = s.st.toNat - n ∧ t = { s with dt := t.dt, st := t.st } ∧
    (s.valuelessSt = false → (Transaction.tick.response t = .tone (some true) ↔ s.st.toNat = n + 1))) ∧
  (∀ s : State, ¬ s.Running → Transaction.tick.apply s = s ∧ Transaction.tick.response s = .tone (some false))

/-! ## Reset and initialisation -/

/-- `Reset` with an image of at most 3584 bytes: PC at 0x200, an empty stack, no key, no cell, no fault, RUNNING, the font
at 0x050 and the image at 0x200, every other byte what an unlisted address reads as. V, I, DT and ST are 0, with a value
under INIT_POLICY = zero and none under unspecified. The values but PC, font place and image are the spec's decision D14
(log entries 4 and 5), the bytes of FONT its D15; that the parameters stay as they were is the model's choice (log
entry 19). -/
def Obligations.ResetLoadsFontAndImage : Prop :=
  ∀ (image : List Byte) (s : State), image.length ≤ 3584 →
    let t := (Transaction.reset image).apply s
    t.pc = 0x200 ∧ t.sp = 0 ∧ t.run = .running ∧ t.fault = none ∧ t.i = 0 ∧ t.dt = 0 ∧ t.st = 0 ∧ t.cfg = s.cfg ∧
    (∀ r : Reg, t.v[r] = 0 ∧ t.keys[r] = false ∧ (t.valuelessV r = true ↔ s.cfg.initPolicy = .unspecified)) ∧
    (t.valuelessI = true ↔ s.cfg.initPolicy = .unspecified) ∧ (t.valuelessDt = true ↔ s.cfg.initPolicy = .unspecified) ∧
    (t.valuelessSt = true ↔ s.cfg.initPolicy = .unspecified) ∧
    (∀ (x : Fin 64) (y : Fin 32), (t.fb[y])[x] = false) ∧ (∀ (j : Nat) (h : j < 12), t.stack[j] = 0) ∧
    (∀ a, t.byteAt a = if 0x200 ≤ a ∧ a < 0x200 + image.length then image[a - 0x200]?
      else if h : 0x050 ≤ a ∧ a < 0x0A0 then some (s.cfg.font[a - 0x050]'(by omega)) else s.cfg.initPolicy.unlisted)

/-- `Reset` with a longer image loads none of it: the state is that of an empty image but for the LoadRejected record,
which holds the length. Rests on the spec's decision D28. -/
def Obligations.ResetRejectsAnOverlongImage : Prop :=
  ∀ (image : List Byte) (s : State), 3584 < image.length →
    (Transaction.reset image).apply s = { (Transaction.reset []).apply s with
      fault := some { cause := .loadRejected, code := 6, pc := 0x200, opcode := none,
                      addr := some (BitVec.ofNat 16 (min image.length 0xFFFF)) } }

/-- Under INIT_POLICY = unspecified, every instruction that reads a register with no value faults with UninitialisedRead
and no address, before any effect; and `ReadSoundTimer`, the one reader of ST, answers that fault where ST has no value,
ST where it has one, and leaves the core as it is. Rests on the spec's decision D14; that DXYN with N = 0 does not read
I, that FX55 checks its transfer before it reads V, and that the fault of `ReadSoundTimer` is answered and not kept as
the core's fault record, is the model's reading (log entries 15, 16 and 17). -/
def Obligations.ReadingAValuelessRegisterFaults : Prop :=
  (∀ (x y : Reg) (nn : Byte) (n : Nat) (s : State) (i : Instr), s.valuelessV x = true →
    i ∈ [Instr.sei x nn, .snei x nn, .se x y, .se y x, .sne x y, .sne y x, .addi x nn, .ld y x, .or x y, .or y x,
      .and x y, .and y x, .xor x y, .xor y x, .skp x, .sknp x, .lddtv x, .ldstv x, .addidx x, .ldf x, .ldb x,
      .drw x y n, .drw y x n] →
    exec i s = .next (s.faultedWith (some (encode i)) .uninitialisedRead 0x80 none)) ∧
  (∀ (x y : Reg) (s : State) (i : Instr), s.valuelessV x = true →
    ¬ (s.cfg.aliasMode = .fault ∧ (x = 15 ∨ y = 15)) →
    i ∈ [Instr.add x y, .add y x, .sub x y, .sub y x, .subn x y, .subn y x, .shl y x, .shr y x] →
    exec i s = .next (s.faultedWith (some (encode i)) .uninitialisedRead 0x80 none)) ∧
  (∀ (x y : Reg) (n : Nat) (s : State) (i : Instr), s.valuelessI = true → 1 ≤ n →
    i ∈ [Instr.addidx x, .ldb x, .stm x, .ldm x, .drw x y n] →
    exec i s = .next (s.faultedWith (some (encode i)) .uninitialisedRead 0x80 none)) ∧
  (∀ (x r : Reg) (s : State), s.valuelessI = false → s.i.toNat + x.val < 4096 →
    ¬ (s.cfg.lowWritePolicy = .fault ∧ s.i.toNat < 0x200) → r ≤ x → s.valuelessV r = true →
    exec (.stm x) s = .next (s.faultedWith (some (encode (.stm x))) .uninitialisedRead 0x80 none)) ∧
  (∀ (x : Reg) (s : State), s.valuelessDt = true →
    exec (.ldvdt x) s = .next (s.faultedWith (some (encode (.ldvdt x))) .uninitialisedRead 0x80 none)) ∧
  (∀ s : State, Transaction.readSoundTimer.apply s = s ∧
    (s.valuelessSt = true → ∃ r : FaultRecord, Transaction.readSoundTimer.response s = .faulted r ∧
      r.cause = .uninitialisedRead ∧ r.code = 0x80 ∧ r.addr = none) ∧
    (s.valuelessSt = false → Transaction.readSoundTimer.response s = .soundTimer s.st))

/-- Under INIT_POLICY = unspecified, a fetch, an FX65 or a DXYN whose first byte without a value is at some address faults
with UninitialisedRead before any effect, and the record holds that address where the parameter takes 60_exceptions.md
R139 and none where it takes 10_state.md R33; DXYN reads no byte of a clipped row. Rests on the spec's decision D14; that
the record names the first such byte and holds no opcode for a fetch, and which rows DXYN reads, is the model's reading
(log entries 15 and 16), and the parameter is the model's own, since the two rules disagree (log entry 28). -/
def Obligations.ReadingAValuelessByteFaults : Prop :=
  (∀ (s : State) (a : Nat), s.Running → s.pc.toNat + 1 < 4096 → s.byteAt a = none →
    a = s.pc.toNat ∨ (a = s.pc.toNat + 1 ∧ s.byteAt s.pc.toNat ≠ none) →
    step s = .next (s.faultedWith none .uninitialisedRead 0x80
      (if s.cfg.uninitialisedAddr = .memoryAddress then some (BitVec.ofNat 16 a) else none))) ∧
  (∀ (x : Reg) (k : Nat) (s : State), s.valuelessI = false → s.i.toNat + x.val < 4096 → k ≤ x.val →
    s.byteAt (s.i.toNat + k) = none → (∀ j < k, s.byteAt (s.i.toNat + j) ≠ none) →
    exec (.ldm x) s = .next (s.faultedWith (some (encode (.ldm x))) .uninitialisedRead 0x80
      (if s.cfg.uninitialisedAddr = .memoryAddress then some (BitVec.ofNat 16 (s.i.toNat + k)) else none))) ∧
  (∀ (x y : Reg) (n k : Nat) (s : State), s.valuelessV x = false → s.valuelessV y = false → s.valuelessI = false →
    s.i.toNat + n ≤ 4096 → k < n → s.v[y].toNat % 32 + k < 32 →
    s.byteAt (s.i.toNat + k) = none → (∀ j < k, s.byteAt (s.i.toNat + j) ≠ none) →
    exec (.drw x y n) s = .next (s.faultedWith (some (encode (.drw x y n))) .uninitialisedRead 0x80
      (if s.cfg.uninitialisedAddr = .memoryAddress then some (BitVec.ofNat 16 (s.i.toNat + k)) else none)))
end

