-- ==== Sys2Proof/Laws/Display.lean ====
section
/-! SUPPORT. What a sprite draw does to each cell, and when it reports a collision. -/

set_option Elab.async false

namespace Sys2Proof.Machine

theorem Canvas.plot_cell (c : Canvas) (x : Fin 64) (y : Fin 32) (p : Bool) (x' : Fin 64) (y' : Fin 32) :
    ((c.plot x y p).fb[y'])[x'] = ((c.fb[y'])[x'] ^^ (decide (y' = y) && decide (x' = x) && p)) := by
  by_cases hy : y = y'
  · subst hy
    by_cases hx : x = x'
    · subst hx; simp [Canvas.plot]
    · simp [Canvas.plot, Fin.val_ne_of_ne hx, Ne.symm hx]
  · simp [Canvas.plot, Fin.val_ne_of_ne hy, Ne.symm hy]

@[simp] theorem Canvas.plot_hit (c : Canvas) (x : Fin 64) (y : Fin 32) (p : Bool) :
    (c.plot x y p).hit = (c.hit || (p && (c.fb[y])[x])) := rfl

/-- The cells after drawing the columns k, …, k + n - 1 of a row. -/
theorem Canvas.drawColumns_cell (x0 : Nat) (y : Fin 32) (s : Byte) (n k : Nat) (c : Canvas) (x' : Fin 64)
    (y' : Fin 32) :
    ((Canvas.drawColumns x0 y s (List.range' k n) c).fb[y'])[x'] =
      ((c.fb[y'])[x'] ^^ (decide (y' = y) && decide (x0 + k ≤ x'.val ∧ x'.val < x0 + k + n) &&
        s.getLsbD (7 - (x'.val - x0)))) := by
  induction n generalizing k c with
  | zero =>
    have : ¬ (x0 + k ≤ x'.val ∧ x'.val < x0 + k + 0) := by omega
    simp only [List.range'_zero, Canvas.drawColumns, this, decide_false, Bool.and_false, Bool.false_and, Bool.xor_false]
  | succ n ih =>
    rw [List.range'_succ, Canvas.drawColumns]
    split
    · rename_i h
      rw [ih, Canvas.plot_cell]
      by_cases hy : y' = y
      · by_cases hx : x' = ⟨x0 + k, h⟩
        · subst hx
          simp [hy]
        · have hx' : x'.val ≠ x0 + k := fun e => hx (Fin.ext e)
          have : (x0 + (k + 1) ≤ x'.val ∧ x'.val < x0 + (k + 1) + n) ↔
              (x0 + k ≤ x'.val ∧ x'.val < x0 + k + (n + 1)) := by omega
          simp only [hx, this, decide_false, Bool.and_false, Bool.false_and, Bool.xor_false]
      · simp [hy]
    · have : ¬ (x0 + k ≤ x'.val ∧ x'.val < x0 + k + (n + 1)) := by omega
      simp [this]

/-- A collision while drawing the columns k, …, k + n - 1 of a row. -/
theorem Canvas.drawColumns_hit (x0 : Nat) (y : Fin 32) (s : Byte) (n k : Nat) (c : Canvas) :
    (Canvas.drawColumns x0 y s (List.range' k n) c).hit = true ↔
      c.hit = true ∨ ∃ x' : Fin 64, (x0 + k ≤ x'.val ∧ x'.val < x0 + k + n) ∧
        s.getLsbD (7 - (x'.val - x0)) = true ∧ (c.fb[y])[x'] = true := by
  induction n generalizing k c with
  | zero =>
    simp only [List.range'_zero, Canvas.drawColumns, Nat.add_zero]
    constructor
    · exact .inl
    · rintro (h | ⟨x', h, -⟩)
      · exact h
      · omega
  | succ n ih =>
    rw [List.range'_succ, Canvas.drawColumns]
    split
    · rename_i h
      rw [ih, Canvas.plot_hit]
      constructor
      · rintro (hh | ⟨x', hx, hs, hc⟩)
        · rcases Bool.or_eq_true_iff.1 hh with hh | hh
          · exact .inl hh
          · have hb := Bool.and_eq_true_iff.1 hh
            refine .inr ⟨⟨x0 + k, h⟩, ⟨by simp, by simp⟩, ?_, hb.2⟩
            rw [show x0 + k - x0 = k by omega]; exact hb.1
        · have hne : x' ≠ ⟨x0 + k, h⟩ := fun e => by rw [e] at hx; simp at hx
          rw [Canvas.plot_cell] at hc
          exact .inr ⟨x', by omega, hs, by simpa [hne] using hc⟩
      · rintro (hh | ⟨x', hx, hs, hc⟩)
        · exact .inl (by simp [hh])
        · by_cases he : x' = ⟨x0 + k, h⟩
          · subst he
            refine .inl ?_
            simp only [show x0 + k - x0 = k by omega] at hs
            rw [hs, hc]; simp
          · have hx' : x'.val ≠ x0 + k := fun e => he (Fin.ext e)
            refine .inr ⟨x', by omega, hs, ?_⟩
            rw [Canvas.plot_cell, hc]
            simp [he]
    · constructor
      · exact .inl
      · rintro (hh | ⟨x', hx, -⟩)
        · exact hh
        · omega

/-- The cells after drawing one sprite row. -/
theorem Canvas.drawRow_cell (c : Canvas) (x0 : Nat) (y : Fin 32) (s : Byte) (x' : Fin 64) (y' : Fin 32) :
    ((c.drawRow x0 y s).fb[y'])[x'] = ((c.fb[y'])[x'] ^^ (decide (y' = y) && rowBit x0 s x')) := by
  have h := Canvas.drawColumns_cell x0 y s 8 0 c x' y'
  rw [show List.range' 0 8 = [0, 1, 2, 3, 4, 5, 6, 7] from rfl] at h
  rw [Canvas.drawRow, h, rowBit, Bool.and_assoc]; rfl

/-- A collision while drawing one sprite row. -/
theorem Canvas.drawRow_hit (c : Canvas) (x0 : Nat) (y : Fin 32) (s : Byte) :
    (c.drawRow x0 y s).hit = true ↔ c.hit = true ∨ ∃ x' : Fin 64, rowBit x0 s x' = true ∧ (c.fb[y])[x'] = true := by
  have h := Canvas.drawColumns_hit x0 y s 8 0 c
  rw [show List.range' 0 8 = [0, 1, 2, 3, 4, 5, 6, 7] from rfl] at h
  simp only [Canvas.drawRow, h, rowBit, Bool.and_eq_true, decide_eq_true_eq, Nat.add_zero, and_assoc]

/-- The cells after drawing sprite rows from row `y` down: the old cell XOR the sprite's bit there. -/
theorem Canvas.drawRows_cell (x0 y : Nat) (rows : List Byte) (c : Canvas) (x' : Fin 64) (y' : Fin 32) :
    ((Canvas.drawRows x0 y rows c).fb[y'])[x'] = ((c.fb[y'])[x'] ^^ spriteBit x0 y rows x' y') := by
  induction rows generalizing y c with
  | nil => simp [Canvas.drawRows, spriteBit]
  | cons s rows ih =>
    rw [Canvas.drawRows]
    split
    · rename_i h
      rw [ih, Canvas.drawRow_cell]
      by_cases he : y' = ⟨y, h⟩
      · subst he
        simp [spriteBit]
      · have hy : y'.val ≠ y := fun e => he (Fin.ext e)
        by_cases hle : y ≤ y'.val
        · have h1 : y + 1 ≤ y'.val := by omega
          simp [spriteBit, he, hle, h1, show y'.val - y = (y'.val - (y + 1)) + 1 by omega]
        · have h1 : ¬ y + 1 ≤ y'.val := by omega
          simp [spriteBit, he, hle, h1]
    · have : ¬ y ≤ y'.val := by omega
      simp [spriteBit, this]

/-- A draw reports a collision exactly when a drawn 1-bit falls on a cell that was true before the draw. -/
theorem Canvas.drawRows_hit (x0 y : Nat) (rows : List Byte) (c : Canvas) :
    (Canvas.drawRows x0 y rows c).hit = true ↔
      c.hit = true ∨ ∃ (x' : Fin 64) (y' : Fin 32), spriteBit x0 y rows x' y' = true ∧ (c.fb[y'])[x'] = true := by
  induction rows generalizing y c with
  | nil => simp [Canvas.drawRows, spriteBit]
  | cons s rows ih =>
    rw [Canvas.drawRows]
    split
    · rename_i h
      rw [ih, Canvas.drawRow_hit]
      have hcell : ∀ (x' : Fin 64) (y' : Fin 32), spriteBit x0 (y + 1) rows x' y' = true →
          spriteBit x0 y (s :: rows) x' y' = true ∧
            ((c.drawRow x0 ⟨y, h⟩ s).fb[y'])[x'] = (c.fb[y'])[x'] := by
        intro x' y' hb
        have h1 : y + 1 ≤ y'.val := by
          by_contra hn; simp [spriteBit, hn] at hb
        have he : y' ≠ ⟨y, h⟩ := fun e => by rw [e] at h1; simp at h1
        refine ⟨?_, by rw [Canvas.drawRow_cell]; simp [he]⟩
        simpa [spriteBit, h1, show y ≤ y'.val by omega, show y'.val - y = (y'.val - (y + 1)) + 1 by omega] using hb
      constructor
      · rintro ((hh | ⟨x', hb, hc⟩) | ⟨x', y', hb, hc⟩)
        · exact .inl hh
        · exact .inr ⟨x', ⟨y, h⟩, by simpa [spriteBit] using hb, hc⟩
        · obtain ⟨h1, h2⟩ := hcell x' y' hb
          exact .inr ⟨x', y', h1, by rw [← h2]; exact hc⟩
      · rintro (hh | ⟨x', y', hb, hc⟩)
        · exact .inl (.inl hh)
        · by_cases he : y' = ⟨y, h⟩
          · subst he
            exact .inl (.inr ⟨x', by simpa [spriteBit] using hb, hc⟩)
          · have hle : y ≤ y'.val := by
              by_contra hn; simp [spriteBit, hn] at hb
            have hne : y'.val ≠ y := fun e => he (Fin.ext e)
            have hb' : spriteBit x0 (y + 1) rows x' y' = true := by
              simpa [spriteBit, hle, show y + 1 ≤ y'.val by omega,
                show y'.val - y = (y'.val - (y + 1)) + 1 by omega] using hb
            exact .inr ⟨x', y', hb', by rw [(hcell x' y' hb').2]; exact hc⟩
    · constructor
      · exact .inl
      · rintro (hh | ⟨x', y', hb, -⟩)
        · exact hh
        · have : ¬ y ≤ y'.val := by omega
          simp [spriteBit, this] at hb

end Sys2Proof.Machine
end

