-- ==== Sys2Proof/Laws/Encode.lean ====
section
/-! SUPPORT. The bits and the fields of the three word layouts (30_encoding.md R68). -/

set_option Elab.async false

namespace Sys2Proof

@[simp] theorem regOfField_fieldOfReg (x : Reg) : regOfField (fieldOfReg x) = x :=
  Fin.ext (by simp [regOfField, fieldOfReg])

@[simp] theorem fieldOfReg_regOfField (f : BitVec 4) : fieldOfReg (regOfField f) = f := by
  apply BitVec.eq_of_toNat_eq; simp [regOfField, fieldOfReg]

/-- The bits of op, X, NN. -/
theorem getLsbD_encodeXNN (op : BitVec 4) (x : Reg) (nn : Byte) (k : Nat) : (encodeXNN op x nn).getLsbD k =
    if k < 8 then nn.getLsbD k else if k < 12 then (fieldOfReg x).getLsbD (k - 8) else op.getLsbD (k - 12) := by
  show (op ++ fieldOfReg x ++ nn : BitVec (4 + 4 + 8)).getLsbD k = _
  rw [BitVec.getLsbD_append, BitVec.getLsbD_append]
  split
  · rfl
  · have : (k - 8 < 4) = (k < 12) := by simp; omega
    simp [this, Nat.sub_sub]

/-- The bits of op, X, Y, N. -/
theorem getLsbD_encodeXYN (op : BitVec 4) (x y : Reg) (n : BitVec 4) (k : Nat) : (encodeXYN op x y n).getLsbD k =
    if k < 4 then n.getLsbD k else if k < 8 then (fieldOfReg y).getLsbD (k - 4)
    else if k < 12 then (fieldOfReg x).getLsbD (k - 8) else op.getLsbD (k - 12) := by
  show (op ++ fieldOfReg x ++ fieldOfReg y ++ n : BitVec (4 + 4 + 4 + 4)).getLsbD k = _
  rw [BitVec.getLsbD_append, BitVec.getLsbD_append, BitVec.getLsbD_append]
  split
  · rfl
  · have h4 : (k - 4 < 4) = (k < 8) := by simp; omega
    have h8 : (k - 4 - 4 < 4) = (k < 12) := by simp; omega
    rw [Nat.sub_sub] at h8
    simp [h4, h8, Nat.sub_sub]

/-- The bits of op, NNN. -/
theorem getLsbD_encodeNNN (op : BitVec 4) (nnn : BitVec 12) (k : Nat) : (encodeNNN op nnn).getLsbD k =
    if k < 12 then nnn.getLsbD k else op.getLsbD (k - 12) := by
  show (op ++ nnn : BitVec (4 + 12)).getLsbD k = _
  rw [BitVec.getLsbD_append]

/-! ## The fields of an encoded word -/

@[simp] theorem opField_encodeXNN (op : BitVec 4) (x : Reg) (nn : Byte) : opField (encodeXNN op x nn) = op := by
  apply BitVec.eq_of_getLsbD_eq
  intro k hk
  rw [opField, BitVec.getLsbD_extractLsb', getLsbD_encodeXNN]
  interval_cases k <;> simp

@[simp] theorem nnField_encodeXNN (op : BitVec 4) (x : Reg) (nn : Byte) : nnField (encodeXNN op x nn) = nn := by
  apply BitVec.eq_of_getLsbD_eq
  intro k hk
  rw [nnField, BitVec.getLsbD_extractLsb', getLsbD_encodeXNN]
  interval_cases k <;> simp

@[simp] theorem xField_encodeXNN (op : BitVec 4) (x : Reg) (nn : Byte) : xField (encodeXNN op x nn) = x := by
  have h : (encodeXNN op x nn).extractLsb' 8 4 = fieldOfReg x := by
    apply BitVec.eq_of_getLsbD_eq
    intro k hk
    rw [BitVec.getLsbD_extractLsb', getLsbD_encodeXNN]
    interval_cases k <;> simp
  rw [xField, h, regOfField_fieldOfReg]

@[simp] theorem opField_encodeXYN (op : BitVec 4) (x y : Reg) (n : BitVec 4) : opField (encodeXYN op x y n) = op := by
  apply BitVec.eq_of_getLsbD_eq
  intro k hk
  rw [opField, BitVec.getLsbD_extractLsb', getLsbD_encodeXYN]
  interval_cases k <;> simp

@[simp] theorem nField_encodeXYN (op : BitVec 4) (x y : Reg) (n : BitVec 4) : nField (encodeXYN op x y n) = n := by
  apply BitVec.eq_of_getLsbD_eq
  intro k hk
  rw [nField, BitVec.getLsbD_extractLsb', getLsbD_encodeXYN]
  interval_cases k <;> simp

@[simp] theorem xField_encodeXYN (op : BitVec 4) (x y : Reg) (n : BitVec 4) : xField (encodeXYN op x y n) = x := by
  have h : (encodeXYN op x y n).extractLsb' 8 4 = fieldOfReg x := by
    apply BitVec.eq_of_getLsbD_eq
    intro k hk
    rw [BitVec.getLsbD_extractLsb', getLsbD_encodeXYN]
    interval_cases k <;> simp
  rw [xField, h, regOfField_fieldOfReg]

@[simp] theorem yField_encodeXYN (op : BitVec 4) (x y : Reg) (n : BitVec 4) : yField (encodeXYN op x y n) = y := by
  have h : (encodeXYN op x y n).extractLsb' 4 4 = fieldOfReg y := by
    apply BitVec.eq_of_getLsbD_eq
    intro k hk
    rw [BitVec.getLsbD_extractLsb', getLsbD_encodeXYN]
    interval_cases k <;> simp
  rw [yField, h, regOfField_fieldOfReg]

@[simp] theorem opField_encodeNNN (op : BitVec 4) (nnn : BitVec 12) : opField (encodeNNN op nnn) = op := by
  apply BitVec.eq_of_getLsbD_eq
  intro k hk
  rw [opField, BitVec.getLsbD_extractLsb', getLsbD_encodeNNN]
  interval_cases k <;> simp

@[simp] theorem nnnField_encodeNNN (op : BitVec 4) (nnn : BitVec 12) : nnnField (encodeNNN op nnn) = nnn := by
  apply BitVec.eq_of_getLsbD_eq
  intro k hk
  rw [nnnField, BitVec.getLsbD_extractLsb', getLsbD_encodeNNN]
  interval_cases k <;> simp

/-! ## The fixed bits of an encoded word -/

theorem encodeXNN_and_F000 (op : BitVec 4) (x : Reg) (nn : Byte) : encodeXNN op x nn &&& 0xF000#16 = encodeXNN op 0 0 := by
  apply BitVec.eq_of_getLsbD_eq
  intro k hk
  rw [BitVec.getLsbD_and, getLsbD_encodeXNN, getLsbD_encodeXNN]
  interval_cases k <;> simp [fieldOfReg]

theorem encodeXNN_and_F0FF (op : BitVec 4) (x : Reg) (nn : Byte) : encodeXNN op x nn &&& 0xF0FF#16 = encodeXNN op 0 nn := by
  apply BitVec.eq_of_getLsbD_eq
  intro k hk
  rw [BitVec.getLsbD_and, getLsbD_encodeXNN, getLsbD_encodeXNN]
  interval_cases k <;> simp [fieldOfReg]

theorem encodeXYN_and_F000 (op : BitVec 4) (x y : Reg) (n : BitVec 4) : encodeXYN op x y n &&& 0xF000#16 = encodeXYN op 0 0 0 := by
  apply BitVec.eq_of_getLsbD_eq
  intro k hk
  rw [BitVec.getLsbD_and, getLsbD_encodeXYN, getLsbD_encodeXYN]
  interval_cases k <;> simp [fieldOfReg]

theorem encodeXYN_and_F00F (op : BitVec 4) (x y : Reg) (n : BitVec 4) : encodeXYN op x y n &&& 0xF00F#16 = encodeXYN op 0 0 n := by
  apply BitVec.eq_of_getLsbD_eq
  intro k hk
  rw [BitVec.getLsbD_and, getLsbD_encodeXYN, getLsbD_encodeXYN]
  interval_cases k <;> simp [fieldOfReg]

theorem encodeNNN_and_F000 (op : BitVec 4) (nnn : BitVec 12) : encodeNNN op nnn &&& 0xF000#16 = encodeNNN op 0 := by
  apply BitVec.eq_of_getLsbD_eq
  intro k hk
  rw [BitVec.getLsbD_and, getLsbD_encodeNNN, getLsbD_encodeNNN]
  interval_cases k <;> simp

end Sys2Proof
end

