-- ==== Sys2Proof/Laws/Memory.lean ====
section
/-! SUPPORT. What the memory operations do: read after write, and the canonical form kept. -/

namespace Sys2Proof.Machine

@[simp] theorem Memory.cellAt_nil (a : Nat) : Memory.cellAt [] a = none := rfl

@[simp] theorem Memory.cellAt_cons (k : Nat) (b : Byte) (m : Memory) (a : Nat) :
    Memory.cellAt ((k, b) :: m) a = if k = a then some b else Memory.cellAt m a := rfl

/-- An address below every listed one is not listed. -/
theorem Memory.cellAt_eq_none_of_lt {m : Memory} {a : Nat} (h : ∀ c ∈ m, a < c.1) : m.cellAt a = none := by
  induction m with
  | nil => rfl
  | cons c m ih =>
    obtain ⟨k, b⟩ := c
    have hk : a < k := h (k, b) (by simp)
    rw [Memory.cellAt_cons, if_neg (by omega), ih fun c hc => h c (by simp [hc])]

theorem Memory.cellAt_insertCell (m : Memory) (a : Nat) (b : Byte) (a' : Nat) :
    (m.insertCell a b).cellAt a' = if a = a' then some b else m.cellAt a' := by
  induction m with
  | nil => rfl
  | cons c m ih =>
    obtain ⟨k, c⟩ := c
    by_cases hlt : a < k
    · simp [Memory.insertCell, hlt]
    · by_cases heq : a = k
      · subst heq; by_cases h : a = a' <;> simp [Memory.insertCell, h]
      · simp only [Memory.insertCell, hlt, heq, if_false, Memory.cellAt_cons, ih]
        by_cases h : k = a'
        · rw [if_pos h, if_neg (by omega), if_pos h]
        · simp [h]

theorem Memory.cellAt_eraseCell {m : Memory} (hm : m.Pairwise fun c d => c.1 < d.1) (a a' : Nat) :
    (m.eraseCell a).cellAt a' = if a = a' then none else m.cellAt a' := by
  induction m with
  | nil => simp [Memory.eraseCell]
  | cons c m ih =>
    obtain ⟨k, c⟩ := c
    rw [List.pairwise_cons] at hm
    by_cases heq : a = k
    · subst heq
      by_cases h : a = a'
      · subst h; simpa [Memory.eraseCell] using Memory.cellAt_eq_none_of_lt hm.1
      · simp [Memory.eraseCell, h]
    · simp only [Memory.eraseCell, heq, if_false, Memory.cellAt_cons, ih hm.2]
      by_cases h : k = a'
      · rw [if_pos h, if_neg (by omega), if_pos h]
      · simp [h]

/-- Read after write, at the same and at every other address. -/
theorem Memory.read_write {u : Option Byte} {m : Memory} (hm : m.Pairwise fun c d => c.1 < d.1)
    (a : Nat) (b : Byte) (a' : Nat) :
    (m.write u a b).read u a' = if a = a' then some b else m.read u a' := by
  by_cases hb : some b = u
  · by_cases h : a = a' <;> simp [Memory.write, Memory.read, hb, Memory.cellAt_eraseCell hm, h]
  · by_cases h : a = a' <;> simp [Memory.write, Memory.read, hb, Memory.cellAt_insertCell, h]

theorem Memory.mem_insertCell {m : Memory} {a : Nat} {b : Byte} {c : Host.Cell}
    (h : c ∈ m.insertCell a b) : c = (a, b) ∨ c ∈ m := by
  induction m with
  | nil => simpa [Memory.insertCell] using h
  | cons d m ih =>
    obtain ⟨k, d⟩ := d
    unfold Memory.insertCell at h
    split at h
    · simpa using h
    · split at h
      · rcases List.mem_cons.1 h with h | h <;> simp [h]
      · rcases List.mem_cons.1 h with h | h
        · simp [h]
        · rcases ih h with h | h <;> simp [h]

theorem Memory.mem_eraseCell {m : Memory} {a : Nat} {c : Host.Cell} (h : c ∈ m.eraseCell a) : c ∈ m := by
  induction m with
  | nil => simp [Memory.eraseCell] at h
  | cons d m ih =>
    obtain ⟨k, d⟩ := d
    unfold Memory.eraseCell at h
    split at h
    · simp [h]
    · rcases List.mem_cons.1 h with h | h
      · simp [h]
      · simp [ih h]

theorem Memory.insertCell_sorted {m : Memory} (hm : m.Pairwise fun c d => c.1 < d.1) (a : Nat) (b : Byte) :
    (m.insertCell a b).Pairwise fun c d => c.1 < d.1 := by
  induction m with
  | nil => simp [Memory.insertCell]
  | cons d m ih =>
    obtain ⟨k, d⟩ := d
    obtain ⟨hk, hm'⟩ := List.pairwise_cons.1 hm
    unfold Memory.insertCell
    split
    · rename_i hlt
      refine List.pairwise_cons.2 ⟨fun c hc => ?_, hm⟩
      rcases List.mem_cons.1 hc with rfl | hc
      · exact hlt
      · exact Nat.lt_trans hlt (hk c hc)
    · split
      · rename_i heq
        subst heq
        exact List.pairwise_cons.2 ⟨hk, hm'⟩
      · refine List.pairwise_cons.2 ⟨fun c hc => ?_, ih hm'⟩
        rcases Memory.mem_insertCell hc with rfl | hc
        · show k < a; omega
        · exact hk c hc

theorem Memory.eraseCell_sorted {m : Memory} (hm : m.Pairwise fun c d => c.1 < d.1) (a : Nat) :
    (m.eraseCell a).Pairwise fun c d => c.1 < d.1 := by
  induction m with
  | nil => simp [Memory.eraseCell]
  | cons d m ih =>
    obtain ⟨k, d⟩ := d
    obtain ⟨hk, hm'⟩ := List.pairwise_cons.1 hm
    unfold Memory.eraseCell
    split
    · exact hm'
    · exact List.pairwise_cons.2 ⟨fun c hc => hk c (Memory.mem_eraseCell hc), ih hm'⟩

/-- A write below 4096 keeps the canonical form. -/
theorem Memory.write_wf {u : Option Byte} {m : Memory} (hm : Memory.wf u m) {a : Nat} (ha : a < 4096) (b : Byte) :
    Memory.wf u (m.write u a b) := by
  unfold Memory.write
  split
  · exact ⟨Memory.eraseCell_sorted hm.1 a, fun c hc => hm.2 c (Memory.mem_eraseCell hc)⟩
  · rename_i hb
    refine ⟨Memory.insertCell_sorted hm.1 a b, fun c hc => ?_⟩
    rcases Memory.mem_insertCell hc with rfl | hc
    · exact ⟨ha, hb⟩
    · exact hm.2 c hc

/-- A store of several bytes below 4096 keeps the canonical form. -/
theorem Memory.writeBytes_wf {u : Option Byte} {m : Memory} (hm : Memory.wf u m) {a : Nat} {bs : List Byte}
    (h : a + bs.length ≤ 4096) : Memory.wf u (m.writeBytes u a bs) := by
  induction bs generalizing m a with
  | nil => exact hm
  | cons b bs ih =>
    rw [List.length_cons] at h
    exact ih (Memory.write_wf hm (by omega) b) (by omega)

/-- Reading after a store of several bytes: inside them the stored byte, outside what was there. -/
theorem Memory.read_writeBytes {u : Option Byte} {m : Memory} (hm : m.Pairwise fun c d => c.1 < d.1)
    (a : Nat) (bs : List Byte) (a' : Nat) :
    (m.writeBytes u a bs).read u a' =
      if a ≤ a' ∧ a' < a + bs.length then bs[a' - a]? else m.read u a' := by
  induction bs generalizing m a with
  | nil => simp [Memory.writeBytes]
  | cons b bs ih =>
    have hm' : (m.write u a b).Pairwise fun c d => c.1 < d.1 := by
      unfold Memory.write; split
      · exact Memory.eraseCell_sorted hm a
      · exact Memory.insertCell_sorted hm a b
    rw [Memory.writeBytes, ih hm', Memory.read_write hm, List.length_cons]
    by_cases h : a = a'
    · subst h; simp
    · by_cases h' : a + 1 ≤ a' ∧ a' < a + 1 + bs.length
      · rw [if_pos h', if_pos (by omega), show a' - a = (a' - (a + 1)) + 1 by omega, List.getElem?_cons_succ]
      · rw [if_neg h', if_neg h, if_neg (by omega)]

end Sys2Proof.Machine
end

