-- ==== Sys2Proof/Laws/State.lean ====
section
/-! SUPPORT. One lemma per field per update of the state, each true by rfl, so that no proof unfolds an update. -/

set_option Elab.async false

namespace Sys2Proof.Machine

/-! ### advance -/

@[simp] theorem State.advance_v (s : State) : s.advance.v = s.v := rfl
@[simp] theorem State.advance_i (s : State) : s.advance.i = s.i := rfl
@[simp] theorem State.advance_pc (s : State) : s.advance.pc = s.pc + 2 := rfl
@[simp] theorem State.advance_stack (s : State) : s.advance.stack = s.stack := rfl
@[simp] theorem State.advance_sp (s : State) : s.advance.sp = s.sp := rfl
@[simp] theorem State.advance_dt (s : State) : s.advance.dt = s.dt := rfl
@[simp] theorem State.advance_st (s : State) : s.advance.st = s.st := rfl
@[simp] theorem State.advance_mem (s : State) : s.advance.mem = s.mem := rfl
@[simp] theorem State.advance_fb (s : State) : s.advance.fb = s.fb := rfl
@[simp] theorem State.advance_keys (s : State) : s.advance.keys = s.keys := rfl
@[simp] theorem State.advance_run (s : State) : s.advance.run = s.run := rfl
@[simp] theorem State.advance_fault (s : State) : s.advance.fault = s.fault := rfl
@[simp] theorem State.advance_cfg (s : State) : s.advance.cfg = s.cfg := rfl
@[simp] theorem State.advance_unset (s : State) : s.advance.unset = s.unset := rfl
@[simp] theorem State.advance_rand (s : State) : s.advance.rand = s.rand := rfl
@[simp] theorem State.advance_draws (s : State) : s.advance.draws = s.draws := rfl

/-! ### setPc -/

@[simp] theorem State.setPc_v (s : State) (w : Word) : (s.setPc w).v = s.v := rfl
@[simp] theorem State.setPc_i (s : State) (w : Word) : (s.setPc w).i = s.i := rfl
@[simp] theorem State.setPc_pc (s : State) (w : Word) : (s.setPc w).pc = w := rfl
@[simp] theorem State.setPc_stack (s : State) (w : Word) : (s.setPc w).stack = s.stack := rfl
@[simp] theorem State.setPc_sp (s : State) (w : Word) : (s.setPc w).sp = s.sp := rfl
@[simp] theorem State.setPc_dt (s : State) (w : Word) : (s.setPc w).dt = s.dt := rfl
@[simp] theorem State.setPc_st (s : State) (w : Word) : (s.setPc w).st = s.st := rfl
@[simp] theorem State.setPc_mem (s : State) (w : Word) : (s.setPc w).mem = s.mem := rfl
@[simp] theorem State.setPc_fb (s : State) (w : Word) : (s.setPc w).fb = s.fb := rfl
@[simp] theorem State.setPc_keys (s : State) (w : Word) : (s.setPc w).keys = s.keys := rfl
@[simp] theorem State.setPc_run (s : State) (w : Word) : (s.setPc w).run = s.run := rfl
@[simp] theorem State.setPc_fault (s : State) (w : Word) : (s.setPc w).fault = s.fault := rfl
@[simp] theorem State.setPc_cfg (s : State) (w : Word) : (s.setPc w).cfg = s.cfg := rfl
@[simp] theorem State.setPc_unset (s : State) (w : Word) : (s.setPc w).unset = s.unset := rfl
@[simp] theorem State.setPc_rand (s : State) (w : Word) : (s.setPc w).rand = s.rand := rfl
@[simp] theorem State.setPc_draws (s : State) (w : Word) : (s.setPc w).draws = s.draws := rfl

/-! ### rewind -/

@[simp] theorem State.rewind_v (s : State) : s.rewind.v = s.v := rfl
@[simp] theorem State.rewind_i (s : State) : s.rewind.i = s.i := rfl
@[simp] theorem State.rewind_pc (s : State) : s.rewind.pc = s.pc - 2 := rfl
@[simp] theorem State.rewind_stack (s : State) : s.rewind.stack = s.stack := rfl
@[simp] theorem State.rewind_sp (s : State) : s.rewind.sp = s.sp := rfl
@[simp] theorem State.rewind_dt (s : State) : s.rewind.dt = s.dt := rfl
@[simp] theorem State.rewind_st (s : State) : s.rewind.st = s.st := rfl
@[simp] theorem State.rewind_mem (s : State) : s.rewind.mem = s.mem := rfl
@[simp] theorem State.rewind_fb (s : State) : s.rewind.fb = s.fb := rfl
@[simp] theorem State.rewind_keys (s : State) : s.rewind.keys = s.keys := rfl
@[simp] theorem State.rewind_run (s : State) : s.rewind.run = s.run := rfl
@[simp] theorem State.rewind_fault (s : State) : s.rewind.fault = s.fault := rfl
@[simp] theorem State.rewind_cfg (s : State) : s.rewind.cfg = s.cfg := rfl
@[simp] theorem State.rewind_unset (s : State) : s.rewind.unset = s.unset := rfl
@[simp] theorem State.rewind_rand (s : State) : s.rewind.rand = s.rand := rfl
@[simp] theorem State.rewind_draws (s : State) : s.rewind.draws = s.draws := rfl

/-! ### setV -/

@[simp] theorem State.setV_v (s : State) (x : Reg) (b : Byte) : (s.setV x b).v = s.v.set x.val b x.isLt := rfl
@[simp] theorem State.setV_i (s : State) (x : Reg) (b : Byte) : (s.setV x b).i = s.i := rfl
@[simp] theorem State.setV_pc (s : State) (x : Reg) (b : Byte) : (s.setV x b).pc = s.pc := rfl
@[simp] theorem State.setV_stack (s : State) (x : Reg) (b : Byte) : (s.setV x b).stack = s.stack := rfl
@[simp] theorem State.setV_sp (s : State) (x : Reg) (b : Byte) : (s.setV x b).sp = s.sp := rfl
@[simp] theorem State.setV_dt (s : State) (x : Reg) (b : Byte) : (s.setV x b).dt = s.dt := rfl
@[simp] theorem State.setV_st (s : State) (x : Reg) (b : Byte) : (s.setV x b).st = s.st := rfl
@[simp] theorem State.setV_mem (s : State) (x : Reg) (b : Byte) : (s.setV x b).mem = s.mem := rfl
@[simp] theorem State.setV_fb (s : State) (x : Reg) (b : Byte) : (s.setV x b).fb = s.fb := rfl
@[simp] theorem State.setV_keys (s : State) (x : Reg) (b : Byte) : (s.setV x b).keys = s.keys := rfl
@[simp] theorem State.setV_run (s : State) (x : Reg) (b : Byte) : (s.setV x b).run = s.run := rfl
@[simp] theorem State.setV_fault (s : State) (x : Reg) (b : Byte) : (s.setV x b).fault = s.fault := rfl
@[simp] theorem State.setV_cfg (s : State) (x : Reg) (b : Byte) : (s.setV x b).cfg = s.cfg := rfl
@[simp] theorem State.setV_unset (s : State) (x : Reg) (b : Byte) : (s.setV x b).unset = s.unset.clearV x := rfl
@[simp] theorem State.setV_rand (s : State) (x : Reg) (b : Byte) : (s.setV x b).rand = s.rand := rfl
@[simp] theorem State.setV_draws (s : State) (x : Reg) (b : Byte) : (s.setV x b).draws = s.draws := rfl

/-! ### setI -/

@[simp] theorem State.setI_v (s : State) (w : Word) : (s.setI w).v = s.v := rfl
@[simp] theorem State.setI_i (s : State) (w : Word) : (s.setI w).i = w := rfl
@[simp] theorem State.setI_pc (s : State) (w : Word) : (s.setI w).pc = s.pc := rfl
@[simp] theorem State.setI_stack (s : State) (w : Word) : (s.setI w).stack = s.stack := rfl
@[simp] theorem State.setI_sp (s : State) (w : Word) : (s.setI w).sp = s.sp := rfl
@[simp] theorem State.setI_dt (s : State) (w : Word) : (s.setI w).dt = s.dt := rfl
@[simp] theorem State.setI_st (s : State) (w : Word) : (s.setI w).st = s.st := rfl
@[simp] theorem State.setI_mem (s : State) (w : Word) : (s.setI w).mem = s.mem := rfl
@[simp] theorem State.setI_fb (s : State) (w : Word) : (s.setI w).fb = s.fb := rfl
@[simp] theorem State.setI_keys (s : State) (w : Word) : (s.setI w).keys = s.keys := rfl
@[simp] theorem State.setI_run (s : State) (w : Word) : (s.setI w).run = s.run := rfl
@[simp] theorem State.setI_fault (s : State) (w : Word) : (s.setI w).fault = s.fault := rfl
@[simp] theorem State.setI_cfg (s : State) (w : Word) : (s.setI w).cfg = s.cfg := rfl
@[simp] theorem State.setI_unset (s : State) (w : Word) : (s.setI w).unset = { s.unset with i := false } := rfl
@[simp] theorem State.setI_rand (s : State) (w : Word) : (s.setI w).rand = s.rand := rfl
@[simp] theorem State.setI_draws (s : State) (w : Word) : (s.setI w).draws = s.draws := rfl

/-! ### setDt -/

@[simp] theorem State.setDt_v (s : State) (b : Byte) : (s.setDt b).v = s.v := rfl
@[simp] theorem State.setDt_i (s : State) (b : Byte) : (s.setDt b).i = s.i := rfl
@[simp] theorem State.setDt_pc (s : State) (b : Byte) : (s.setDt b).pc = s.pc := rfl
@[simp] theorem State.setDt_stack (s : State) (b : Byte) : (s.setDt b).stack = s.stack := rfl
@[simp] theorem State.setDt_sp (s : State) (b : Byte) : (s.setDt b).sp = s.sp := rfl
@[simp] theorem State.setDt_dt (s : State) (b : Byte) : (s.setDt b).dt = b := rfl
@[simp] theorem State.setDt_st (s : State) (b : Byte) : (s.setDt b).st = s.st := rfl
@[simp] theorem State.setDt_mem (s : State) (b : Byte) : (s.setDt b).mem = s.mem := rfl
@[simp] theorem State.setDt_fb (s : State) (b : Byte) : (s.setDt b).fb = s.fb := rfl
@[simp] theorem State.setDt_keys (s : State) (b : Byte) : (s.setDt b).keys = s.keys := rfl
@[simp] theorem State.setDt_run (s : State) (b : Byte) : (s.setDt b).run = s.run := rfl
@[simp] theorem State.setDt_fault (s : State) (b : Byte) : (s.setDt b).fault = s.fault := rfl
@[simp] theorem State.setDt_cfg (s : State) (b : Byte) : (s.setDt b).cfg = s.cfg := rfl
@[simp] theorem State.setDt_unset (s : State) (b : Byte) : (s.setDt b).unset = { s.unset with dt := false } := rfl
@[simp] theorem State.setDt_rand (s : State) (b : Byte) : (s.setDt b).rand = s.rand := rfl
@[simp] theorem State.setDt_draws (s : State) (b : Byte) : (s.setDt b).draws = s.draws := rfl

/-! ### setSt -/

@[simp] theorem State.setSt_v (s : State) (b : Byte) : (s.setSt b).v = s.v := rfl
@[simp] theorem State.setSt_i (s : State) (b : Byte) : (s.setSt b).i = s.i := rfl
@[simp] theorem State.setSt_pc (s : State) (b : Byte) : (s.setSt b).pc = s.pc := rfl
@[simp] theorem State.setSt_stack (s : State) (b : Byte) : (s.setSt b).stack = s.stack := rfl
@[simp] theorem State.setSt_sp (s : State) (b : Byte) : (s.setSt b).sp = s.sp := rfl
@[simp] theorem State.setSt_dt (s : State) (b : Byte) : (s.setSt b).dt = s.dt := rfl
@[simp] theorem State.setSt_st (s : State) (b : Byte) : (s.setSt b).st = b := rfl
@[simp] theorem State.setSt_mem (s : State) (b : Byte) : (s.setSt b).mem = s.mem := rfl
@[simp] theorem State.setSt_fb (s : State) (b : Byte) : (s.setSt b).fb = s.fb := rfl
@[simp] theorem State.setSt_keys (s : State) (b : Byte) : (s.setSt b).keys = s.keys := rfl
@[simp] theorem State.setSt_run (s : State) (b : Byte) : (s.setSt b).run = s.run := rfl
@[simp] theorem State.setSt_fault (s : State) (b : Byte) : (s.setSt b).fault = s.fault := rfl
@[simp] theorem State.setSt_cfg (s : State) (b : Byte) : (s.setSt b).cfg = s.cfg := rfl
@[simp] theorem State.setSt_unset (s : State) (b : Byte) : (s.setSt b).unset = { s.unset with st := false } := rfl
@[simp] theorem State.setSt_rand (s : State) (b : Byte) : (s.setSt b).rand = s.rand := rfl
@[simp] theorem State.setSt_draws (s : State) (b : Byte) : (s.setSt b).draws = s.draws := rfl

/-! ### storeBytes -/

@[simp] theorem State.storeBytes_v (s : State) (a : Nat) (bs : List Byte) : (s.storeBytes a bs).v = s.v := rfl
@[simp] theorem State.storeBytes_i (s : State) (a : Nat) (bs : List Byte) : (s.storeBytes a bs).i = s.i := rfl
@[simp] theorem State.storeBytes_pc (s : State) (a : Nat) (bs : List Byte) : (s.storeBytes a bs).pc = s.pc := rfl
@[simp] theorem State.storeBytes_stack (s : State) (a : Nat) (bs : List Byte) : (s.storeBytes a bs).stack = s.stack := rfl
@[simp] theorem State.storeBytes_sp (s : State) (a : Nat) (bs : List Byte) : (s.storeBytes a bs).sp = s.sp := rfl
@[simp] theorem State.storeBytes_dt (s : State) (a : Nat) (bs : List Byte) : (s.storeBytes a bs).dt = s.dt := rfl
@[simp] theorem State.storeBytes_st (s : State) (a : Nat) (bs : List Byte) : (s.storeBytes a bs).st = s.st := rfl
@[simp] theorem State.storeBytes_mem (s : State) (a : Nat) (bs : List Byte) : (s.storeBytes a bs).mem = s.mem.writeBytes s.cfg.initPolicy.unlisted a bs := rfl
@[simp] theorem State.storeBytes_fb (s : State) (a : Nat) (bs : List Byte) : (s.storeBytes a bs).fb = s.fb := rfl
@[simp] theorem State.storeBytes_keys (s : State) (a : Nat) (bs : List Byte) : (s.storeBytes a bs).keys = s.keys := rfl
@[simp] theorem State.storeBytes_run (s : State) (a : Nat) (bs : List Byte) : (s.storeBytes a bs).run = s.run := rfl
@[simp] theorem State.storeBytes_fault (s : State) (a : Nat) (bs : List Byte) : (s.storeBytes a bs).fault = s.fault := rfl
@[simp] theorem State.storeBytes_cfg (s : State) (a : Nat) (bs : List Byte) : (s.storeBytes a bs).cfg = s.cfg := rfl
@[simp] theorem State.storeBytes_unset (s : State) (a : Nat) (bs : List Byte) : (s.storeBytes a bs).unset = s.unset := rfl
@[simp] theorem State.storeBytes_rand (s : State) (a : Nat) (bs : List Byte) : (s.storeBytes a bs).rand = s.rand := rfl
@[simp] theorem State.storeBytes_draws (s : State) (a : Nat) (bs : List Byte) : (s.storeBytes a bs).draws = s.draws := rfl

/-! ### drawNext -/

@[simp] theorem State.drawNext_v (s : State) : s.drawNext.v = s.v := rfl
@[simp] theorem State.drawNext_i (s : State) : s.drawNext.i = s.i := rfl
@[simp] theorem State.drawNext_pc (s : State) : s.drawNext.pc = s.pc := rfl
@[simp] theorem State.drawNext_stack (s : State) : s.drawNext.stack = s.stack := rfl
@[simp] theorem State.drawNext_sp (s : State) : s.drawNext.sp = s.sp := rfl
@[simp] theorem State.drawNext_dt (s : State) : s.drawNext.dt = s.dt := rfl
@[simp] theorem State.drawNext_st (s : State) : s.drawNext.st = s.st := rfl
@[simp] theorem State.drawNext_mem (s : State) : s.drawNext.mem = s.mem := rfl
@[simp] theorem State.drawNext_fb (s : State) : s.drawNext.fb = s.fb := rfl
@[simp] theorem State.drawNext_keys (s : State) : s.drawNext.keys = s.keys := rfl
@[simp] theorem State.drawNext_run (s : State) : s.drawNext.run = s.run := rfl
@[simp] theorem State.drawNext_fault (s : State) : s.drawNext.fault = s.fault := rfl
@[simp] theorem State.drawNext_cfg (s : State) : s.drawNext.cfg = s.cfg := rfl
@[simp] theorem State.drawNext_unset (s : State) : s.drawNext.unset = s.unset := rfl
@[simp] theorem State.drawNext_rand (s : State) : s.drawNext.rand = Config.randomByte s.draws := rfl
@[simp] theorem State.drawNext_draws (s : State) : s.drawNext.draws = s.draws + 1 := rfl

/-! ### takeFault -/

@[simp] theorem State.takeFault_v (s : State) (w : Option Word) (t : Trap) : (s.takeFault w t).v = s.v := rfl
@[simp] theorem State.takeFault_i (s : State) (w : Option Word) (t : Trap) : (s.takeFault w t).i = s.i := rfl
@[simp] theorem State.takeFault_pc (s : State) (w : Option Word) (t : Trap) : (s.takeFault w t).pc = s.pc := rfl
@[simp] theorem State.takeFault_stack (s : State) (w : Option Word) (t : Trap) : (s.takeFault w t).stack = s.stack := rfl
@[simp] theorem State.takeFault_sp (s : State) (w : Option Word) (t : Trap) : (s.takeFault w t).sp = s.sp := rfl
@[simp] theorem State.takeFault_dt (s : State) (w : Option Word) (t : Trap) : (s.takeFault w t).dt = s.dt := rfl
@[simp] theorem State.takeFault_st (s : State) (w : Option Word) (t : Trap) : (s.takeFault w t).st = s.st := rfl
@[simp] theorem State.takeFault_mem (s : State) (w : Option Word) (t : Trap) : (s.takeFault w t).mem = s.mem := rfl
@[simp] theorem State.takeFault_fb (s : State) (w : Option Word) (t : Trap) : (s.takeFault w t).fb = s.fb := rfl
@[simp] theorem State.takeFault_keys (s : State) (w : Option Word) (t : Trap) : (s.takeFault w t).keys = s.keys := rfl
@[simp] theorem State.takeFault_run (s : State) (w : Option Word) (t : Trap) : (s.takeFault w t).run = s.run := rfl
@[simp] theorem State.takeFault_fault (s : State) (w : Option Word) (t : Trap) : (s.takeFault w t).fault = some (s.recordOf w t) := rfl
@[simp] theorem State.takeFault_cfg (s : State) (w : Option Word) (t : Trap) : (s.takeFault w t).cfg = s.cfg := rfl
@[simp] theorem State.takeFault_unset (s : State) (w : Option Word) (t : Trap) : (s.takeFault w t).unset = s.unset := rfl
@[simp] theorem State.takeFault_rand (s : State) (w : Option Word) (t : Trap) : (s.takeFault w t).rand = s.rand := rfl
@[simp] theorem State.takeFault_draws (s : State) (w : Option Word) (t : Trap) : (s.takeFault w t).draws = s.draws := rfl

/-! ### setFlag -/

@[simp] theorem State.setFlag_v (s : State) (c : Bool) : (s.setFlag c).v = s.v.set 15 (flagByte c) := rfl
@[simp] theorem State.setFlag_i (s : State) (c : Bool) : (s.setFlag c).i = s.i := rfl
@[simp] theorem State.setFlag_pc (s : State) (c : Bool) : (s.setFlag c).pc = s.pc := rfl
@[simp] theorem State.setFlag_stack (s : State) (c : Bool) : (s.setFlag c).stack = s.stack := rfl
@[simp] theorem State.setFlag_sp (s : State) (c : Bool) : (s.setFlag c).sp = s.sp := rfl
@[simp] theorem State.setFlag_dt (s : State) (c : Bool) : (s.setFlag c).dt = s.dt := rfl
@[simp] theorem State.setFlag_st (s : State) (c : Bool) : (s.setFlag c).st = s.st := rfl
@[simp] theorem State.setFlag_mem (s : State) (c : Bool) : (s.setFlag c).mem = s.mem := rfl
@[simp] theorem State.setFlag_fb (s : State) (c : Bool) : (s.setFlag c).fb = s.fb := rfl
@[simp] theorem State.setFlag_keys (s : State) (c : Bool) : (s.setFlag c).keys = s.keys := rfl
@[simp] theorem State.setFlag_run (s : State) (c : Bool) : (s.setFlag c).run = s.run := rfl
@[simp] theorem State.setFlag_fault (s : State) (c : Bool) : (s.setFlag c).fault = s.fault := rfl
@[simp] theorem State.setFlag_cfg (s : State) (c : Bool) : (s.setFlag c).cfg = s.cfg := rfl
@[simp] theorem State.setFlag_unset (s : State) (c : Bool) : (s.setFlag c).unset = s.unset.clearV 15 := rfl
@[simp] theorem State.setFlag_rand (s : State) (c : Bool) : (s.setFlag c).rand = s.rand := rfl
@[simp] theorem State.setFlag_draws (s : State) (c : Bool) : (s.setFlag c).draws = s.draws := rfl

/-! ### skipIf -/

@[simp] theorem State.skipIf_v (s : State) (c : Bool) : (s.skipIf c).v = s.v := by cases c <;> rfl
@[simp] theorem State.skipIf_i (s : State) (c : Bool) : (s.skipIf c).i = s.i := by cases c <;> rfl
@[simp] theorem State.skipIf_pc (s : State) (c : Bool) : (s.skipIf c).pc = if c then s.pc + 2 else s.pc := by cases c <;> rfl
@[simp] theorem State.skipIf_stack (s : State) (c : Bool) : (s.skipIf c).stack = s.stack := by cases c <;> rfl
@[simp] theorem State.skipIf_sp (s : State) (c : Bool) : (s.skipIf c).sp = s.sp := by cases c <;> rfl
@[simp] theorem State.skipIf_dt (s : State) (c : Bool) : (s.skipIf c).dt = s.dt := by cases c <;> rfl
@[simp] theorem State.skipIf_st (s : State) (c : Bool) : (s.skipIf c).st = s.st := by cases c <;> rfl
@[simp] theorem State.skipIf_mem (s : State) (c : Bool) : (s.skipIf c).mem = s.mem := by cases c <;> rfl
@[simp] theorem State.skipIf_fb (s : State) (c : Bool) : (s.skipIf c).fb = s.fb := by cases c <;> rfl
@[simp] theorem State.skipIf_keys (s : State) (c : Bool) : (s.skipIf c).keys = s.keys := by cases c <;> rfl
@[simp] theorem State.skipIf_run (s : State) (c : Bool) : (s.skipIf c).run = s.run := by cases c <;> rfl
@[simp] theorem State.skipIf_fault (s : State) (c : Bool) : (s.skipIf c).fault = s.fault := by cases c <;> rfl
@[simp] theorem State.skipIf_cfg (s : State) (c : Bool) : (s.skipIf c).cfg = s.cfg := by cases c <;> rfl
@[simp] theorem State.skipIf_unset (s : State) (c : Bool) : (s.skipIf c).unset = s.unset := by cases c <;> rfl
@[simp] theorem State.skipIf_rand (s : State) (c : Bool) : (s.skipIf c).rand = s.rand := by cases c <;> rfl
@[simp] theorem State.skipIf_draws (s : State) (c : Bool) : (s.skipIf c).draws = s.draws := by cases c <;> rfl

/-! ### setIndexFlag -/

@[simp] theorem State.setIndexFlag_i (s : State) (c : Bool) : (s.setIndexFlag c).i = s.i := by
  unfold State.setIndexFlag; split <;> rfl
@[simp] theorem State.setIndexFlag_pc (s : State) (c : Bool) : (s.setIndexFlag c).pc = s.pc := by
  unfold State.setIndexFlag; split <;> rfl
@[simp] theorem State.setIndexFlag_stack (s : State) (c : Bool) : (s.setIndexFlag c).stack = s.stack := by
  unfold State.setIndexFlag; split <;> rfl
@[simp] theorem State.setIndexFlag_sp (s : State) (c : Bool) : (s.setIndexFlag c).sp = s.sp := by
  unfold State.setIndexFlag; split <;> rfl
@[simp] theorem State.setIndexFlag_dt (s : State) (c : Bool) : (s.setIndexFlag c).dt = s.dt := by
  unfold State.setIndexFlag; split <;> rfl
@[simp] theorem State.setIndexFlag_st (s : State) (c : Bool) : (s.setIndexFlag c).st = s.st := by
  unfold State.setIndexFlag; split <;> rfl
@[simp] theorem State.setIndexFlag_mem (s : State) (c : Bool) : (s.setIndexFlag c).mem = s.mem := by
  unfold State.setIndexFlag; split <;> rfl
@[simp] theorem State.setIndexFlag_fb (s : State) (c : Bool) : (s.setIndexFlag c).fb = s.fb := by
  unfold State.setIndexFlag; split <;> rfl
@[simp] theorem State.setIndexFlag_keys (s : State) (c : Bool) : (s.setIndexFlag c).keys = s.keys := by
  unfold State.setIndexFlag; split <;> rfl
@[simp] theorem State.setIndexFlag_run (s : State) (c : Bool) : (s.setIndexFlag c).run = s.run := by
  unfold State.setIndexFlag; split <;> rfl
@[simp] theorem State.setIndexFlag_fault (s : State) (c : Bool) : (s.setIndexFlag c).fault = s.fault := by
  unfold State.setIndexFlag; split <;> rfl
@[simp] theorem State.setIndexFlag_cfg (s : State) (c : Bool) : (s.setIndexFlag c).cfg = s.cfg := by
  unfold State.setIndexFlag; split <;> rfl
@[simp] theorem State.setIndexFlag_rand (s : State) (c : Bool) : (s.setIndexFlag c).rand = s.rand := by
  unfold State.setIndexFlag; split <;> rfl
@[simp] theorem State.setIndexFlag_draws (s : State) (c : Bool) : (s.setIndexFlag c).draws = s.draws := by
  unfold State.setIndexFlag; split <;> rfl

/-! ### setVs -/

@[simp] theorem State.setVs_i (s : State) (xs : List Reg) (bs : List Byte) : (s.setVs xs bs).i = s.i := by
  induction xs generalizing s bs with
  | nil => cases bs <;> rfl
  | cons x xs ih => cases bs with
    | nil => rfl
    | cons b bs => simp [State.setVs, ih]
@[simp] theorem State.setVs_pc (s : State) (xs : List Reg) (bs : List Byte) : (s.setVs xs bs).pc = s.pc := by
  induction xs generalizing s bs with
  | nil => cases bs <;> rfl
  | cons x xs ih => cases bs with
    | nil => rfl
    | cons b bs => simp [State.setVs, ih]
@[simp] theorem State.setVs_stack (s : State) (xs : List Reg) (bs : List Byte) : (s.setVs xs bs).stack = s.stack := by
  induction xs generalizing s bs with
  | nil => cases bs <;> rfl
  | cons x xs ih => cases bs with
    | nil => rfl
    | cons b bs => simp [State.setVs, ih]
@[simp] theorem State.setVs_sp (s : State) (xs : List Reg) (bs : List Byte) : (s.setVs xs bs).sp = s.sp := by
  induction xs generalizing s bs with
  | nil => cases bs <;> rfl
  | cons x xs ih => cases bs with
    | nil => rfl
    | cons b bs => simp [State.setVs, ih]
@[simp] theorem State.setVs_dt (s : State) (xs : List Reg) (bs : List Byte) : (s.setVs xs bs).dt = s.dt := by
  induction xs generalizing s bs with
  | nil => cases bs <;> rfl
  | cons x xs ih => cases bs with
    | nil => rfl
    | cons b bs => simp [State.setVs, ih]
@[simp] theorem State.setVs_st (s : State) (xs : List Reg) (bs : List Byte) : (s.setVs xs bs).st = s.st := by
  induction xs generalizing s bs with
  | nil => cases bs <;> rfl
  | cons x xs ih => cases bs with
    | nil => rfl
    | cons b bs => simp [State.setVs, ih]
@[simp] theorem State.setVs_mem (s : State) (xs : List Reg) (bs : List Byte) : (s.setVs xs bs).mem = s.mem := by
  induction xs generalizing s bs with
  | nil => cases bs <;> rfl
  | cons x xs ih => cases bs with
    | nil => rfl
    | cons b bs => simp [State.setVs, ih]
@[simp] theorem State.setVs_fb (s : State) (xs : List Reg) (bs : List Byte) : (s.setVs xs bs).fb = s.fb := by
  induction xs generalizing s bs with
  | nil => cases bs <;> rfl
  | cons x xs ih => cases bs with
    | nil => rfl
    | cons b bs => simp [State.setVs, ih]
@[simp] theorem State.setVs_keys (s : State) (xs : List Reg) (bs : List Byte) : (s.setVs xs bs).keys = s.keys := by
  induction xs generalizing s bs with
  | nil => cases bs <;> rfl
  | cons x xs ih => cases bs with
    | nil => rfl
    | cons b bs => simp [State.setVs, ih]
@[simp] theorem State.setVs_run (s : State) (xs : List Reg) (bs : List Byte) : (s.setVs xs bs).run = s.run := by
  induction xs generalizing s bs with
  | nil => cases bs <;> rfl
  | cons x xs ih => cases bs with
    | nil => rfl
    | cons b bs => simp [State.setVs, ih]
@[simp] theorem State.setVs_fault (s : State) (xs : List Reg) (bs : List Byte) : (s.setVs xs bs).fault = s.fault := by
  induction xs generalizing s bs with
  | nil => cases bs <;> rfl
  | cons x xs ih => cases bs with
    | nil => rfl
    | cons b bs => simp [State.setVs, ih]
@[simp] theorem State.setVs_cfg (s : State) (xs : List Reg) (bs : List Byte) : (s.setVs xs bs).cfg = s.cfg := by
  induction xs generalizing s bs with
  | nil => cases bs <;> rfl
  | cons x xs ih => cases bs with
    | nil => rfl
    | cons b bs => simp [State.setVs, ih]
@[simp] theorem State.setVs_rand (s : State) (xs : List Reg) (bs : List Byte) : (s.setVs xs bs).rand = s.rand := by
  induction xs generalizing s bs with
  | nil => cases bs <;> rfl
  | cons x xs ih => cases bs with
    | nil => rfl
    | cons b bs => simp [State.setVs, ih]
@[simp] theorem State.setVs_draws (s : State) (xs : List Reg) (bs : List Byte) : (s.setVs xs bs).draws = s.draws := by
  induction xs generalizing s bs with
  | nil => cases bs <;> rfl
  | cons x xs ih => cases bs with
    | nil => rfl
    | cons b bs => simp [State.setVs, ih]

end Sys2Proof.Machine
end

