-- ==== Sys2Proof/Laws/Ops.lean ====
section
/-! SUPPORT. What each shared operation can do, once: later proofs cite these and unfold none of them. -/

set_option Elab.async false

namespace Sys2Proof.Machine

/-! ## The end of a meaning -/

@[simp] theorem ok_bind {ε α β : Type} (a : α) (f : α → Except ε β) : (Except.ok a >>= f) = f a := rfl

@[simp] theorem error_bind {ε α β : Type} (e : ε) (f : α → Except ε β) :
    ((Except.error e : Except ε α) >>= f) = .error e := rfl

@[simp] theorem pure_eq_ok {ε α : Type} (a : α) : (pure a : Except ε α) = .ok a := rfl

/-- A bind that succeeds succeeded in both parts. -/
theorem bind_eq_ok {ε α β : Type} {x : Except ε α} {f : α → Except ε β} {b : β} :
    (x >>= f) = .ok b ↔ ∃ a, x = .ok a ∧ f a = .ok b := by
  cases x <;> simp

/-- A bind that fails failed in one part. -/
theorem bind_eq_error {ε α β : Type} {x : Except ε α} {f : α → Except ε β} {e : ε} :
    (x >>= f) = .error e ↔ x = .error e ∨ ∃ a, x = .ok a ∧ f a = .error e := by
  cases x <;> simp

@[simp] theorem State.commit_ok (s t : State) (i : Instr) : s.commit i (.ok t) = .next t := rfl

@[simp] theorem State.commit_error (s : State) (i : Instr) (t : Trap) :
    s.commit i (.error t) = .next (s.takeFault (some (encode i)) t) := rfl

/-- A meaning ends in its effect or in a fault entry, nothing else. -/
theorem State.commit_cases {s t : State} {i : Instr} {e : Except Trap State} (h : s.commit i e = .next t) :
    e = .ok t ∨ ∃ tr, e = .error tr ∧ t = s.takeFault (some (encode i)) tr := by
  cases e with
  | ok u => exact .inl (by simpa using h)
  | error tr => exact .inr ⟨tr, rfl, by simpa using h.symm⟩

/-- `commit` always answers a next state. -/
theorem State.commit_next (s : State) (i : Instr) (e : Except Trap State) : ∃ t, s.commit i e = .next t := by
  cases e <;> exact ⟨_, rfl⟩

/-! ## Registers -/

theorem State.readV_ok {s : State} {x : Reg} (h : s.valuelessV x = false) : s.readV x = .ok s.v[x] := by
  simp [State.readV, h]

theorem State.readI_ok {s : State} (h : s.valuelessI = false) : s.readI = .ok s.i := by simp [State.readI, h]

theorem State.readDt_ok {s : State} (h : s.valuelessDt = false) : s.readDt = .ok s.dt := by simp [State.readDt, h]

theorem State.readSt_ok {s : State} (h : s.valuelessSt = false) : s.readSt = .ok s.st := by simp [State.readSt, h]

theorem State.readSt_valueless {s : State} (h : s.valuelessSt = true) :
    s.readSt = .error ⟨.uninitialisedRead, none⟩ := by simp [State.readSt, h]

/-- A register read gives the register, or the register holds no value. -/
theorem State.readV_eq (s : State) (x : Reg) :
    s.readV x = if s.valuelessV x then .error ⟨.uninitialisedRead, none⟩ else .ok s.v[x] := rfl

theorem State.readV_eq_ok {s : State} {x : Reg} {b : Byte} :
    s.readV x = .ok b ↔ s.valuelessV x = false ∧ b = s.v[x] := by
  unfold State.readV; cases s.valuelessV x <;> simp [eq_comm]

theorem State.readI_eq_ok {s : State} {w : Word} : s.readI = .ok w ↔ s.valuelessI = false ∧ w = s.i := by
  unfold State.readI; cases s.valuelessI <;> simp [eq_comm]

theorem State.readDt_eq_ok {s : State} {b : Byte} : s.readDt = .ok b ↔ s.valuelessDt = false ∧ b = s.dt := by
  unfold State.readDt; cases s.valuelessDt <;> simp [eq_comm]

theorem State.readV_eq_error {s : State} {x : Reg} {t : Trap} (h : s.readV x = .error t) :
    t = ⟨.uninitialisedRead, none⟩ ∧ s.cfg.initPolicy = .unspecified := by
  unfold State.readV State.valuelessV at h
  split at h <;> simp_all

theorem State.readI_eq_error {s : State} {t : Trap} (h : s.readI = .error t) :
    t = ⟨.uninitialisedRead, none⟩ ∧ s.cfg.initPolicy = .unspecified := by
  unfold State.readI State.valuelessI at h
  split at h <;> simp_all

theorem State.readDt_eq_error {s : State} {t : Trap} (h : s.readDt = .error t) :
    t = ⟨.uninitialisedRead, none⟩ ∧ s.cfg.initPolicy = .unspecified := by
  unfold State.readDt State.valuelessDt at h
  split at h <;> simp_all

theorem State.readSt_eq_error {s : State} {t : Trap} (h : s.readSt = .error t) :
    t = ⟨.uninitialisedRead, none⟩ ∧ s.cfg.initPolicy = .unspecified := by
  unfold State.readSt State.valuelessSt at h
  split at h <;> simp_all

/-- Under INIT_POLICY = zero every register has a value. -/
theorem State.valuelessV_of_zero {s : State} (h : s.cfg.initPolicy = .zero) (x : Reg) : s.valuelessV x = false := by
  simp [State.valuelessV, h]

theorem State.valuelessI_of_zero {s : State} (h : s.cfg.initPolicy = .zero) : s.valuelessI = false := by
  simp [State.valuelessI, h]

theorem State.valuelessDt_of_zero {s : State} (h : s.cfg.initPolicy = .zero) : s.valuelessDt = false := by
  simp [State.valuelessDt, h]

/-- A read of the registers in a list gives each in order. -/
theorem State.readVs_eq_ok {s : State} {xs : List Reg} {bs : List Byte} :
    s.readVs xs = .ok bs ↔ (∀ x ∈ xs, s.valuelessV x = false) ∧ bs = xs.map (s.v[·]) := by
  induction xs generalizing bs with
  | nil => cases bs <;> simp [State.readVs]
  | cons x xs ih =>
    simp only [State.readVs, bind_eq_ok, State.readV_eq_ok, ih, pure_eq_ok, Except.ok.injEq]
    constructor
    · rintro ⟨b, ⟨hx, rfl⟩, cs, ⟨hxs, rfl⟩, rfl⟩
      exact ⟨by simpa [hx] using hxs, rfl⟩
    · rintro ⟨h, rfl⟩
      exact ⟨_, ⟨h x (by simp), rfl⟩, _, ⟨fun y hy => h y (by simp [hy]), rfl⟩, rfl⟩

theorem State.readVs_eq_error {s : State} {xs : List Reg} {t : Trap} (h : s.readVs xs = .error t) :
    t = ⟨.uninitialisedRead, none⟩ ∧ s.cfg.initPolicy = .unspecified := by
  induction xs with
  | nil => simp [State.readVs] at h
  | cons x xs ih =>
    rcases bind_eq_error.1 h with h | ⟨b, -, h⟩
    · exact State.readV_eq_error h
    · rcases bind_eq_error.1 h with h | ⟨bs, -, h⟩
      · exact ih h
      · simp at h

/-- A register outside the list keeps its value. -/
theorem State.setVs_v_of_not_mem {s : State} {xs : List Reg} {bs : List Byte} {r : Reg} (h : r ∉ xs) :
    (s.setVs xs bs).v[r] = s.v[r] := by
  induction xs generalizing s bs with
  | nil => cases bs <;> rfl
  | cons x xs ih =>
    cases bs with
    | nil => rfl
    | cons b bs =>
      have hx : x ≠ r := fun e => h (by simp [e])
      rw [State.setVs, ih fun hr => h (by simp [hr])]
      simp [Fin.val_ne_of_ne hx]

/-! ## Stack -/

theorem State.push_ok {s : State} {w : Word} (h : s.sp.val < 12) :
    s.push w = .ok { s with stack := s.stack.set s.sp.val w h, sp := ⟨s.sp.val + 1, by omega⟩ } := by
  simp [State.push, h]

theorem State.push_full {s : State} {w : Word} (h : s.sp.val = 12) : s.push w = .error ⟨.stackOverflow, none⟩ := by
  simp [State.push, h]

theorem State.popPc_ok {s : State} (h : s.sp.val ≠ 0) :
    s.popPc = .ok { s with pc := s.stack[s.sp.val - 1]'(by omega), sp := ⟨s.sp.val - 1, by omega⟩ } := by
  simp [State.popPc, h]

theorem State.popPc_empty {s : State} (h : s.sp.val = 0) : s.popPc = .error ⟨.stackUnderflow, none⟩ := by
  simp [State.popPc, h]

/-- A push that succeeds: where there was room, and what it left. -/
theorem State.push_eq_ok {s t : State} {w : Word} (h : s.push w = .ok t) :
    ∃ hs : s.sp.val < 12, t = { s with stack := s.stack.set s.sp.val w hs, sp := ⟨s.sp.val + 1, by omega⟩ } := by
  unfold State.push at h
  split at h
  · exact ⟨‹_›, by simpa using h.symm⟩
  · simp at h

theorem State.push_eq_error {s : State} {w : Word} {t : Trap} (h : s.push w = .error t) :
    t = ⟨.stackOverflow, none⟩ ∧ s.sp.val = 12 := by
  unfold State.push at h
  split at h
  · simp at h
  · exact ⟨by simpa using h.symm, by omega⟩

/-- A pop that succeeds: the stack was not empty, and what it left. -/
theorem State.popPc_eq_ok {s t : State} (h : s.popPc = .ok t) :
    ∃ _ : s.sp.val ≠ 0, t = { s with pc := s.stack[s.sp.val - 1]'(by omega), sp := ⟨s.sp.val - 1, by omega⟩ } := by
  unfold State.popPc at h
  split at h
  · simp at h
  · exact ⟨‹_›, by simpa using h.symm⟩

theorem State.popPc_eq_error {s : State} {t : Trap} (h : s.popPc = .error t) :
    t = ⟨.stackUnderflow, none⟩ ∧ s.sp.val = 0 := by
  unfold State.popPc at h
  split at h
  · exact ⟨by simpa using h.symm, ‹_›⟩
  · simp at h

/-! ## Memory -/

/-- Under INIT_POLICY = zero every byte has a value. -/
theorem State.byteAt_of_zero {s : State} (h : s.cfg.initPolicy = .zero) (a : Nat) : ∃ b, s.byteAt a = some b := by
  unfold State.byteAt Memory.read
  split
  · exact ⟨_, rfl⟩
  · exact ⟨0, by simp [h, InitPolicy.unlisted]⟩

theorem State.loadByte_eq_ok {s : State} {a : Nat} {b : Byte} :
    s.loadByte a = .ok b ↔ a < 4096 ∧ s.byteAt a = some b := by
  unfold State.loadByte
  by_cases h : 4096 ≤ a
  · simp [h]
  · cases hb : s.byteAt a
    · simp [h]
    · simp [h]; omega

@[simp] theorem recordedByteAddr_memoryAddress (a : Nat) :
    recordedByteAddr .memoryAddress a = some (BitVec.ofNat 16 a) := rfl

@[simp] theorem recordedByteAddr_omitted (a : Nat) : recordedByteAddr .omitted a = none := rfl

/-- A load that fails: out of range, or a byte with no value. -/
theorem State.loadByte_eq_error {s : State} {a : Nat} {t : Trap} (h : s.loadByte a = .error t) :
    (4096 ≤ a ∧ t = ⟨.addressOutOfRange, some (BitVec.ofNat 16 a)⟩) ∨
    (a < 4096 ∧ s.byteAt a = none ∧ t = ⟨.uninitialisedRead, recordedByteAddr s.cfg.uninitialisedAddr a⟩) := by
  unfold State.loadByte at h
  split at h
  · exact .inl ⟨‹_›, by simpa using h.symm⟩
  · split at h
    · simp at h
    · exact .inr ⟨by omega, ‹_›, by simpa using h.symm⟩

/-- A byte with no value is there under INIT_POLICY = unspecified only. -/
theorem State.unspecified_of_byteAt_none {s : State} {a : Nat} (h : s.byteAt a = none) :
    s.cfg.initPolicy = .unspecified := by
  cases hp : s.cfg.initPolicy with
  | unspecified => rfl
  | zero => obtain ⟨b, hb⟩ := State.byteAt_of_zero hp a; simp [hb] at h

/-- Loading `n` bytes gives `n` bytes, the k-th the byte at `a + k`, all in range. -/
theorem State.loadBytes_eq_ok {s : State} {a n : Nat} {bs : List Byte} (h : s.loadBytes a n = .ok bs) :
    bs.length = n ∧ ∀ (k : Nat) (hk : k < bs.length), a + k < 4096 ∧ s.byteAt (a + k) = some bs[k] := by
  induction n generalizing a bs with
  | zero => simp [State.loadBytes] at h; subst h; simp
  | succ n ih =>
    simp only [State.loadBytes, bind_eq_ok, State.loadByte_eq_ok, pure_eq_ok, Except.ok.injEq] at h
    obtain ⟨b, hb, cs, hcs, rfl⟩ := h
    obtain ⟨hl, hc⟩ := ih hcs
    refine ⟨by simp [hl], fun k hk => ?_⟩
    cases k with
    | zero => simpa using hb
    | succ k =>
      have := hc k (by simpa using hk)
      simpa [Nat.add_assoc, Nat.add_comm 1 k] using this

/-- Loading `n` bytes that are in range and have values succeeds. -/
theorem State.loadBytes_ok {s : State} {a n : Nat} (hr : a + n ≤ 4096)
    (hb : ∀ k < n, s.byteAt (a + k) ≠ none) : ∃ bs, s.loadBytes a n = .ok bs := by
  induction n generalizing a with
  | zero => exact ⟨[], rfl⟩
  | succ n ih =>
    obtain ⟨b, h0⟩ := Option.ne_none_iff_exists'.1 (hb 0 (by omega))
    obtain ⟨bs, hbs⟩ := ih (a := a + 1) (by omega) fun k hk => by
      simpa [Nat.add_assoc, Nat.add_comm 1 k] using hb (k + 1) (by omega)
    have hl : s.loadByte a = .ok b := State.loadByte_eq_ok.2 ⟨by omega, h0⟩
    exact ⟨b :: bs, by simp [State.loadBytes, hl, hbs]⟩

/-- Reading one byte after a store of several: the stored byte inside them, the old one outside. -/
theorem State.byteAt_storeBytes {s : State} (hm : Memory.wf s.cfg.initPolicy.unlisted s.mem) (a : Nat)
    (bs : List Byte) (a' : Nat) :
    (s.storeBytes a bs).byteAt a' = if a ≤ a' ∧ a' < a + bs.length then bs[a' - a]? else s.byteAt a' :=
  Memory.read_writeBytes hm.1 a bs a'

/-- The check of a transfer of at least one byte passes exactly when all of it is below 4096 and, for a store under
LOW_WRITE_POLICY = fault, at or above 0x200. -/
theorem checkTransfer_eq_ok {p : LowWritePolicy} {d : Transfer} {a n : Nat} (_ : 1 ≤ n) :
    checkTransfer p d a n = .ok () ↔ a + n ≤ 4096 ∧ ¬ (d = .store ∧ p = .fault ∧ a < 0x200) := by
  unfold checkTransfer
  by_cases h : 4096 ≤ a + n - 1
  · simp [h]; omega
  · by_cases h' : d = .store ∧ p = .fault ∧ a < 0x200 <;> simp [h, h'] ; omega

theorem checkTransfer_eq_error {p : LowWritePolicy} {d : Transfer} {a n : Nat} {t : Trap}
    (h : checkTransfer p d a n = .error t) :
    (4096 ≤ a + n - 1 ∧ t = ⟨.addressOutOfRange, some (BitVec.ofNat 16 (max a 0x1000))⟩) ∨
    (d = .store ∧ p = .fault ∧ a < 0x200 ∧ t = ⟨.protectedWrite, some (BitVec.ofNat 16 a)⟩) := by
  unfold checkTransfer at h
  split at h
  · exact .inl ⟨‹_›, by simpa using h.symm⟩
  · split at h
    · rename_i hl; exact .inr ⟨hl.1, hl.2.1, hl.2.2, by simpa using h.symm⟩
    · simp at h

/-- The base of a transfer that passes its check is I. -/
theorem State.transferBase_eq_ok {s : State} {d : Transfer} {n a : Nat} (hn : 1 ≤ n) :
    s.transferBase d n = .ok a ↔ s.valuelessI = false ∧ a = s.i.toNat ∧ a + n ≤ 4096 ∧
      ¬ (d = .store ∧ s.cfg.lowWritePolicy = .fault ∧ a < 0x200) := by
  simp only [State.transferBase, bind_eq_ok, State.readI_eq_ok, pure_eq_ok, Except.ok.injEq]
  constructor
  · rintro ⟨w, ⟨hi, rfl⟩, u, hu, rfl⟩
    exact ⟨hi, rfl, (checkTransfer_eq_ok hn).1 hu⟩
  · rintro ⟨hi, rfl, hc⟩
    exact ⟨s.i, ⟨hi, rfl⟩, (), (checkTransfer_eq_ok hn).2 hc, rfl⟩

/-! ## Fetch -/

/-- A fetch that succeeds reads two bytes in range, the high one first. -/
theorem State.fetch_eq_ok {s : State} {w : Word} :
    s.fetch = .ok w ↔ s.pc.toNat + 1 < 4096 ∧ ∃ high low,
      s.byteAt s.pc.toNat = some high ∧ s.byteAt (s.pc.toNat + 1) = some low ∧ w = wordOfBytes high low := by
  unfold State.fetch
  by_cases h : 4096 ≤ s.pc.toNat + 1
  · simp [h]
  · simp only [h, if_false, bind_eq_ok, State.loadByte_eq_ok, pure_eq_ok, Except.ok.injEq]
    constructor
    · rintro ⟨hi, ⟨_, h1⟩, lo, ⟨_, h2⟩, rfl⟩
      exact ⟨by omega, hi, lo, h1, h2, rfl⟩
    · rintro ⟨_, hi, lo, h1, h2, rfl⟩
      exact ⟨hi, ⟨by omega, h1⟩, lo, ⟨by omega, h2⟩, rfl⟩

end Sys2Proof.Machine
end

