-- ==== Sys2Proof/Laws/Operands.lean ====
section
/-! SUPPORT. What the operand forms and the flag writes give. -/

set_option Elab.async false

namespace Sys2Proof.Machine

@[simp] theorem mem_allRegs (r : Reg) : r ∈ allRegs := by revert r; decide

@[simp] theorem mem_regsUpTo (x r : Reg) : r ∈ regsUpTo x ↔ r ≤ x := by revert x r; decide

@[simp] theorem length_regsUpTo (x : Reg) : (regsUpTo x).length = x.val + 1 := by revert x; decide

/-- The range V[0..X] in order: its k-th register is V[k]. -/
theorem regsUpTo_getElem? (x r : Reg) (h : r ≤ x) : (regsUpTo x)[r.val]? = some r := by revert x r; decide

theorem regsUpTo_nodup (x : Reg) : (regsUpTo x).Nodup := by revert x; decide

/-- The register at position k of a list without repeats takes the k-th byte. -/
theorem State.setVs_v_of_getElem? {s : State} {xs : List Reg} {bs : List Byte} (hn : xs.Nodup) {k : Nat} {r : Reg}
    {b : Byte} (hx : xs[k]? = some r) (hb : bs[k]? = some b) : (s.setVs xs bs).v[r] = b := by
  induction xs generalizing s bs k with
  | nil => simp at hx
  | cons x xs ih =>
    cases bs with
    | nil => simp at hb
    | cons c bs =>
      rw [List.nodup_cons] at hn
      cases k with
      | zero =>
        simp only [List.getElem?_cons_zero, Option.some.injEq] at hx hb
        subst hx hb
        rw [State.setVs, State.setVs_v_of_not_mem hn.1]
        simp
      | succ k => exact ih hn.2 (by simpa using hx) (by simpa using hb)

/-- No key is pressed. -/
theorem lowestPressed_eq_none {keys : Keypad} : lowestPressed keys = none ↔ ∀ k : Reg, keys[k] = false := by
  simp [lowestPressed]

/-- The key found is pressed and no lower one is. -/
theorem lowestPressed_eq_some {keys : Keypad} {k : Reg} (h : lowestPressed keys = some k) :
    keys[k] = true ∧ ∀ j : Reg, j < k → keys[j] = false := by
  unfold lowestPressed at h
  rw [List.find?_eq_some_iff_getElem] at h
  obtain ⟨hk, n, hn, rfl, hlt⟩ := h
  refine ⟨hk, fun j hj => ?_⟩
  have hr : ∀ (m : Nat) (hm : m < allRegs.length), (allRegs[m]).val = m := by decide
  have hj' : j.val < n := by rw [← hr n hn]; exact hj
  have hjl : j.val < allRegs.length := Nat.lt_trans hj' hn
  have hje : allRegs[j.val] = j := Fin.ext (hr j.val hjl)
  have hf := hlt j.val hj'
  rw [hje] at hf
  simpa using hf

/-- A key index in range reads the latch. -/
theorem keyPressed_ok (p : KeyIndexPolicy) (keys : Keypad) {v : Byte} (h : v.toNat < 16) :
    keyPressed p keys v = .ok (keys[v.toNat]) := by
  simp [keyPressed, show v.toNat ≤ 15 by omega]

/-- A key index above 0xF under `mask`. -/
theorem keyPressed_mask (keys : Keypad) {v : Byte} (h : 16 ≤ v.toNat) :
    keyPressed .mask keys v = .ok (keys[v.toNat % 16]'(by omega)) := by
  simp [keyPressed, show ¬ v.toNat ≤ 15 by omega]

/-- A key index above 0xF under `fault`. -/
theorem keyPressed_fault (keys : Keypad) {v : Byte} (h : 16 ≤ v.toNat) :
    keyPressed .fault keys v = .error ⟨.keyIndexOutOfRange, some (v.setWidth 16)⟩ := by
  simp [keyPressed, show ¬ v.toNat ≤ 15 by omega]

theorem keyPressed_eq_error {p : KeyIndexPolicy} {keys : Keypad} {v : Byte} {t : Trap}
    (h : keyPressed p keys v = .error t) :
    p = .fault ∧ 16 ≤ v.toNat ∧ t = ⟨.keyIndexOutOfRange, some (v.setWidth 16)⟩ := by
  unfold keyPressed at h
  split at h
  · simp at h
  · split at h
    · exact ⟨rfl, by omega, by simpa using h.symm⟩
    · simp at h

theorem State.checkAlias_eq_ok {s : State} {x y : Reg} :
    s.checkAlias x y = .ok () ↔ ¬ (s.cfg.aliasMode = .fault ∧ (x = 15 ∨ y = 15)) := by
  unfold State.checkAlias; split <;> simp_all

theorem State.checkAlias_eq_error {s : State} {x y : Reg} {t : Trap} (h : s.checkAlias x y = .error t) :
    t = ⟨.aliasRefused, none⟩ ∧ s.cfg.aliasMode = .fault ∧ (x = 15 ∨ y = 15) := by
  unfold State.checkAlias at h
  split at h
  · rename_i hc; exact ⟨by simpa using h.symm, hc⟩
  · simp at h

/-- The rows a draw reads are the drawn ones, all N of them checked. -/
theorem State.spriteRows_eq_ok {s : State} {n y0 : Nat} {rows : List Byte} (hn : 1 ≤ n)
    (h : s.spriteRows n y0 = .ok rows) :
    s.valuelessI = false ∧ s.i.toNat + n ≤ 4096 ∧ rows.length = visibleRows y0 n ∧
      ∀ (k : Nat) (hk : k < rows.length), s.byteAt (s.i.toNat + k) = some rows[k] := by
  simp only [State.spriteRows, show n ≠ 0 by omega, if_false, bind_eq_ok, State.transferBase_eq_ok hn] at h
  obtain ⟨a, ⟨hi, rfl, hr, -⟩, hl⟩ := h
  obtain ⟨hlen, hb⟩ := State.loadBytes_eq_ok hl
  exact ⟨hi, hr, hlen, fun k hk => (hb k hk).2⟩

/-- A draw of no rows reads nothing. -/
@[simp] theorem State.spriteRows_zero (s : State) (y0 : Nat) : s.spriteRows 0 y0 = .ok [] := rfl

/-- The three decimal digits of a byte are digits, and it is their number. -/
theorem decimalDigits_value (v : Byte) :
    ∃ h t u : Nat, decimalDigits v = [BitVec.ofNat 8 h, BitVec.ofNat 8 t, BitVec.ofNat 8 u] ∧
      h ≤ 2 ∧ t ≤ 9 ∧ u ≤ 9 ∧ 100 * h + 10 * t + u = v.toNat := by
  have := v.isLt
  exact ⟨_, _, _, rfl, by omega, by omega, by omega, by omega⟩

/-! ## Flags -/

@[simp] theorem flagByte_true : flagByte true = 1 := rfl

@[simp] theorem flagByte_false : flagByte false = 0 := rfl

theorem flagByte_decide (p : Prop) [Decidable p] : flagByte (decide p) = if p then 1 else 0 := by
  by_cases h : p <;> simp [h]

@[simp] theorem State.byAliasMode_sequential {s : State} (h : s.cfg.aliasMode = .sequential) (a b : State) :
    s.byAliasMode a b = a := by simp [State.byAliasMode, h]

@[simp] theorem State.byAliasMode_flagLast {s : State} (h : s.cfg.aliasMode = .flagLast) (a b : State) :
    s.byAliasMode a b = b := by simp [State.byAliasMode, h]

@[simp] theorem State.byAliasMode_fault {s : State} (h : s.cfg.aliasMode = .fault) (a b : State) :
    s.byAliasMode a b = a := by simp [State.byAliasMode, h]

/-- ALIAS_MODE picks one of the two orders. -/
theorem State.byAliasMode_cases (s a b : State) : s.byAliasMode a b = a ∨ s.byAliasMode a b = b := by
  unfold State.byAliasMode; split <;> simp

@[simp] theorem State.setIndexFlag_set {s : State} (h : s.cfg.indexFlagMode = .set) (c : Bool) :
    s.setIndexFlag c = s.setFlag c := by simp [State.setIndexFlag, h]

@[simp] theorem State.setIndexFlag_unchanged {s : State} (h : s.cfg.indexFlagMode = .unchanged) (c : Bool) :
    s.setIndexFlag c = s := by simp [State.setIndexFlag, h]

end Sys2Proof.Machine
end

