-- ==== Sys2Proof/Laws/Frames.lean ====
section
/-! SUPPORT. Which fields a shared operation may change, what it reads, and the forms in which the claims name a
result. -/

set_option Elab.async false

namespace Sys2Proof.Machine

/-! ## What may change -/

theorem State.push_frame {s t : State} {w : Word} (h : s.push w = .ok t) :
    t = { s with stack := t.stack, sp := t.sp } := by
  obtain ⟨_, rfl⟩ := State.push_eq_ok h; rfl

theorem State.popPc_frame {s t : State} (h : s.popPc = .ok t) : t = { s with pc := t.pc, sp := t.sp } := by
  obtain ⟨_, rfl⟩ := State.popPc_eq_ok h; rfl

theorem State.skipIf_frame (s : State) (c : Bool) : s.skipIf c = { s with pc := (s.skipIf c).pc } := by
  cases c <;> rfl

theorem State.setVs_frame (s : State) (xs : List Reg) (bs : List Byte) :
    s.setVs xs bs = { s with v := (s.setVs xs bs).v, unset := { s.unset with v := (s.setVs xs bs).unset.v } } := by
  induction xs generalizing s bs with
  | nil => cases bs <;> rfl
  | cons x xs ih =>
    cases bs with
    | nil => rfl
    | cons b bs => rw [State.setVs, ih]; rfl

theorem State.setIndexFlag_frame (s : State) (c : Bool) :
    s.setIndexFlag c =
      { s with v := (s.setIndexFlag c).v, unset := { s.unset with v := (s.setIndexFlag c).unset.v } } := by
  unfold State.setIndexFlag; split <;> rfl

/-- Every register of the list has a value after its write; no other mark changes. -/
theorem State.setVs_unset {s : State} {xs : List Reg} {bs : List Byte} (hl : xs.length = bs.length) {r : Reg} :
    (s.setVs xs bs).unset.v[r] = if r ∈ xs then false else s.unset.v[r] := by
  induction xs generalizing s bs with
  | nil => cases bs <;> rfl
  | cons x xs ih =>
    cases bs with
    | nil => simp at hl
    | cons b bs =>
      rw [State.setVs, ih (by simpa using hl)]
      by_cases h : r ∈ xs
      · simp [h]
      · by_cases hx : r = x
        · subst hx; simp [h, Unset.clearV]
        · simp [h, hx, Unset.clearV, Fin.val_ne_of_ne (Ne.symm hx)]

/-! ## What is read -/

theorem State.loadBytes_congr {s u : State} (hm : u.mem = s.mem) (hc : u.cfg = s.cfg) (a n : Nat) :
    u.loadBytes a n = s.loadBytes a n := by
  induction n generalizing a with
  | zero => rfl
  | succ n ih => simp only [State.loadBytes, ih, State.loadByte, State.byteAt, hm, hc]

theorem State.readVs_congr {s u : State} (hv : u.v = s.v) (hc : u.cfg = s.cfg) (hu : u.unset.v = s.unset.v)
    (xs : List Reg) : u.readVs xs = s.readVs xs := by
  induction xs with
  | nil => rfl
  | cons x xs ih =>
    have hx : u.readV x = s.readV x := by simp [State.readV, State.valuelessV, hv, hc, hu]
    simp only [State.readVs, ih, hx]

/-! ## What is raised: only causes the parameters admit -/

theorem admitted_uninitialisedRead {s : State} {t : Trap} {a : Option Word}
    (h : t = ⟨.uninitialisedRead, a⟩ ∧ s.cfg.initPolicy = .unspecified) : t.cause.admittedBy s.cfg = true := by
  obtain ⟨rfl, hp⟩ := h; simp [Cause.admittedBy, hp]

theorem State.readV_admitted {s : State} {x : Reg} {t : Trap} (h : s.readV x = .error t) :
    t.cause.admittedBy s.cfg = true := admitted_uninitialisedRead (State.readV_eq_error h)

/-- `ReadSoundTimer` answers ST, or the fault UninitialisedRead where ST holds no value. -/
theorem State.soundTimer_eq (s : State) : s.soundTimer = if s.valuelessSt then
    .faulted (s.recordOf none ⟨.uninitialisedRead, none⟩) else .soundTimer s.st := by
  cases h : s.valuelessSt
  · simp [State.soundTimer, State.readSt_ok h]
  · simp [State.soundTimer, State.readSt_valueless h]

theorem State.loadBytes_admitted {s : State} {a n : Nat} {t : Trap} (h : s.loadBytes a n = .error t) :
    t.cause.admittedBy s.cfg = true := by
  induction n generalizing a with
  | zero => simp [State.loadBytes] at h
  | succ n ih =>
    rcases bind_eq_error.1 h with h | ⟨b, -, h⟩
    · rcases State.loadByte_eq_error h with ⟨-, rfl⟩ | ⟨-, hb, rfl⟩
      · rfl
      · exact admitted_uninitialisedRead ⟨rfl, State.unspecified_of_byteAt_none hb⟩
    · rcases bind_eq_error.1 h with h | ⟨b, -, h⟩
      · exact ih h
      · simp at h

theorem State.transferBase_admitted {s : State} {d : Transfer} {n : Nat} {t : Trap}
    (h : s.transferBase d n = .error t) : t.cause.admittedBy s.cfg = true := by
  rcases bind_eq_error.1 h with h | ⟨b, -, h⟩
  · exact admitted_uninitialisedRead (State.readI_eq_error h)
  · rcases bind_eq_error.1 h with h | ⟨b, -, h⟩
    · rcases checkTransfer_eq_error h with ⟨-, rfl⟩ | ⟨-, hp, -, rfl⟩
      · rfl
      · simp [Cause.admittedBy, hp]
    · simp at h

theorem State.spriteRows_admitted {s : State} {n y0 : Nat} {t : Trap} (h : s.spriteRows n y0 = .error t) :
    t.cause.admittedBy s.cfg = true := by
  unfold State.spriteRows at h
  split at h
  · simp at h
  · rcases bind_eq_error.1 h with h | ⟨b, -, h⟩
    · exact State.transferBase_admitted h
    · exact State.loadBytes_admitted h

theorem State.keyOf_admitted {s : State} {x : Reg} {t : Trap} (h : s.keyOf x = .error t) :
    t.cause.admittedBy s.cfg = true := by
  rcases bind_eq_error.1 h with h | ⟨b, -, h⟩
  · exact State.readV_admitted h
  · obtain ⟨hp, -, rfl⟩ := keyPressed_eq_error h
    simp [Cause.admittedBy, hp]

theorem State.checkAlias_admitted {s : State} {x y : Reg} {t : Trap} (h : s.checkAlias x y = .error t) :
    t.cause.admittedBy s.cfg = true := by
  obtain ⟨rfl, hp, -⟩ := State.checkAlias_eq_error h
  simp [Cause.admittedBy, hp]

/-! ## Results as the claims name them -/

theorem Unset.clearV_comm (u : Unset) (x y : Reg) : (u.clearV x).clearV y = (u.clearV y).clearV x := by
  by_cases h : x = y
  · subst h; rfl
  · simp only [Unset.clearV]; congr 1; exact Vector.set_comm _ _ (Fin.val_ne_of_ne h)

@[simp] theorem Unset.clearV_clearV (u : Unset) (x : Reg) : (u.clearV x).clearV x = u.clearV x := by
  simp [Unset.clearV]

theorem State.advance_setV (s : State) (x : Reg) (b : Byte) : s.advance.setV x b = s.wrote x b := rfl

/-- The flag first, then the result: the `sequential` order. -/
theorem State.setFlag_setV (s : State) (x : Reg) (c : Bool) (b : Byte) :
    (s.advance.setFlag c).setV x b = s.wroteFlagged x ((s.v.set 15 (flagByte c)).set x.val b x.isLt) := rfl

/-- The result first, then the flag: the `flag_last` order. -/
theorem State.setV_setFlag (s : State) (x : Reg) (c : Bool) (b : Byte) :
    (s.advance.setV x b).setFlag c = s.wroteFlagged x ((s.v.set x.val b x.isLt).set 15 (flagByte c)) := by
  simp only [State.wroteFlagged, Unset.clearV_comm s.unset 15 x]; rfl

/-- The two orders agree when the destination is not VF. -/
theorem set_flag_comm {x : Reg} (h : x ≠ 15) (v : Vector Byte 16) (f b : Byte) :
    (v.set x.val b x.isLt).set 15 f = (v.set 15 f).set x.val b x.isLt :=
  Vector.set_comm _ _ (Fin.val_ne_of_ne h)

theorem State.takeFault_eq_faultedWith (s : State) (opcode : Option Word) (t : Trap) :
    s.takeFault opcode t = s.faultedWith opcode t.cause t.cause.code t.addr := rfl

/-- The bits of the rows a draw reads are the sprite's, in every cell. -/
theorem State.spriteBit_eq_spritePixel {s : State} {n y0 : Nat} {rows : List Byte}
    (h : s.spriteRows n y0 = .ok rows) (x0 : Nat) (x : Fin 64) (y : Fin 32) :
    spriteBit x0 y0 rows x y = s.spritePixel n x0 y0 x y := by
  by_cases hn : n = 0
  · subst hn
    simp only [State.spriteRows_zero, Except.ok.injEq] at h
    subst h
    simp [spriteBit, State.spritePixel]
  · obtain ⟨-, -, hl, hb⟩ := State.spriteRows_eq_ok (by omega) h
    simp only [spriteBit, State.spritePixel, visibleRows] at *
    by_cases hle : y0 ≤ y.val
    · by_cases hlt : y.val < y0 + n
      · have hk : y.val - y0 < rows.length := by rw [hl]; have := y.isLt; omega
        simp [hle, hlt, hk, hb _ hk]
      · have : rows[y.val - y0]? = none := by simp; omega
        rw [this]; simp [hle, hlt]
    · simp [hle]

end Sys2Proof.Machine
end

