-- ==== Sys2Proof/Laws/PerInstr.lean ====
section
/-! SUPPORT. Facts about every instruction as syntax, one lemma per constructor. -/

set_option Elab.async false

/-- The instruction's word has the fixed bits of its row of spec/opcode_table.json (30_encoding.md R70). -/
def Sys2Proof.Laws.EncodesInItsRow.Statement (i : Sys2Proof.Instr) : Prop :=
  Sys2Proof.encode i &&& i.mask = i.pattern

namespace Sys2Proof.Laws

theorem EncodesInItsRow.cls : EncodesInItsRow.Statement (.cls) :=
  rfl

theorem EncodesInItsRow.ret : EncodesInItsRow.Statement (.ret) :=
  rfl

theorem EncodesInItsRow.jp (nnn : BitVec 12) : EncodesInItsRow.Statement (.jp nnn) :=
  (encodeNNN_and_F000 _ _).trans rfl

theorem EncodesInItsRow.call (nnn : BitVec 12) : EncodesInItsRow.Statement (.call nnn) :=
  (encodeNNN_and_F000 _ _).trans rfl

theorem EncodesInItsRow.sei (x : Reg) (nn : Byte) : EncodesInItsRow.Statement (.sei x nn) :=
  (encodeXNN_and_F000 _ _ _).trans rfl

theorem EncodesInItsRow.snei (x : Reg) (nn : Byte) : EncodesInItsRow.Statement (.snei x nn) :=
  (encodeXNN_and_F000 _ _ _).trans rfl

theorem EncodesInItsRow.se (x y : Reg) : EncodesInItsRow.Statement (.se x y) :=
  (encodeXYN_and_F00F _ _ _ _).trans rfl

theorem EncodesInItsRow.ldi (x : Reg) (nn : Byte) : EncodesInItsRow.Statement (.ldi x nn) :=
  (encodeXNN_and_F000 _ _ _).trans rfl

theorem EncodesInItsRow.addi (x : Reg) (nn : Byte) : EncodesInItsRow.Statement (.addi x nn) :=
  (encodeXNN_and_F000 _ _ _).trans rfl

theorem EncodesInItsRow.ld (x y : Reg) : EncodesInItsRow.Statement (.ld x y) :=
  (encodeXYN_and_F00F _ _ _ _).trans rfl

theorem EncodesInItsRow.or (x y : Reg) : EncodesInItsRow.Statement (.or x y) :=
  (encodeXYN_and_F00F _ _ _ _).trans rfl

theorem EncodesInItsRow.and (x y : Reg) : EncodesInItsRow.Statement (.and x y) :=
  (encodeXYN_and_F00F _ _ _ _).trans rfl

theorem EncodesInItsRow.xor (x y : Reg) : EncodesInItsRow.Statement (.xor x y) :=
  (encodeXYN_and_F00F _ _ _ _).trans rfl

theorem EncodesInItsRow.add (x y : Reg) : EncodesInItsRow.Statement (.add x y) :=
  (encodeXYN_and_F00F _ _ _ _).trans rfl

theorem EncodesInItsRow.sub (x y : Reg) : EncodesInItsRow.Statement (.sub x y) :=
  (encodeXYN_and_F00F _ _ _ _).trans rfl

theorem EncodesInItsRow.shl (x y : Reg) : EncodesInItsRow.Statement (.shl x y) :=
  (encodeXYN_and_F00F _ _ _ _).trans rfl

theorem EncodesInItsRow.subn (x y : Reg) : EncodesInItsRow.Statement (.subn x y) :=
  (encodeXYN_and_F00F _ _ _ _).trans rfl

theorem EncodesInItsRow.shr (x y : Reg) : EncodesInItsRow.Statement (.shr x y) :=
  (encodeXYN_and_F00F _ _ _ _).trans rfl

theorem EncodesInItsRow.sne (x y : Reg) : EncodesInItsRow.Statement (.sne x y) :=
  (encodeXYN_and_F00F _ _ _ _).trans rfl

theorem EncodesInItsRow.ldidx (nnn : BitVec 12) : EncodesInItsRow.Statement (.ldidx nnn) :=
  (encodeNNN_and_F000 _ _).trans rfl

theorem EncodesInItsRow.rnd (x : Reg) (nn : Byte) : EncodesInItsRow.Statement (.rnd x nn) :=
  (encodeXNN_and_F000 _ _ _).trans rfl

theorem EncodesInItsRow.drw (x y : Reg) (n : Nat) : EncodesInItsRow.Statement (.drw x y n) :=
  (encodeXYN_and_F000 _ _ _ _).trans rfl

theorem EncodesInItsRow.skp (x : Reg) : EncodesInItsRow.Statement (.skp x) :=
  (encodeXNN_and_F0FF _ _ _).trans rfl

theorem EncodesInItsRow.sknp (x : Reg) : EncodesInItsRow.Statement (.sknp x) :=
  (encodeXNN_and_F0FF _ _ _).trans rfl

theorem EncodesInItsRow.ldvdt (x : Reg) : EncodesInItsRow.Statement (.ldvdt x) :=
  (encodeXNN_and_F0FF _ _ _).trans rfl

theorem EncodesInItsRow.ldk (x : Reg) : EncodesInItsRow.Statement (.ldk x) :=
  (encodeXNN_and_F0FF _ _ _).trans rfl

theorem EncodesInItsRow.lddtv (x : Reg) : EncodesInItsRow.Statement (.lddtv x) :=
  (encodeXNN_and_F0FF _ _ _).trans rfl

theorem EncodesInItsRow.ldstv (x : Reg) : EncodesInItsRow.Statement (.ldstv x) :=
  (encodeXNN_and_F0FF _ _ _).trans rfl

theorem EncodesInItsRow.addidx (x : Reg) : EncodesInItsRow.Statement (.addidx x) :=
  (encodeXNN_and_F0FF _ _ _).trans rfl

theorem EncodesInItsRow.ldf (x : Reg) : EncodesInItsRow.Statement (.ldf x) :=
  (encodeXNN_and_F0FF _ _ _).trans rfl

theorem EncodesInItsRow.ldb (x : Reg) : EncodesInItsRow.Statement (.ldb x) :=
  (encodeXNN_and_F0FF _ _ _).trans rfl

theorem EncodesInItsRow.stm (x : Reg) : EncodesInItsRow.Statement (.stm x) :=
  (encodeXNN_and_F0FF _ _ _).trans rfl

theorem EncodesInItsRow.ldm (x : Reg) : EncodesInItsRow.Statement (.ldm x) :=
  (encodeXNN_and_F0FF _ _ _).trans rfl

end Sys2Proof.Laws
end

