-- ==== Sys2Proof/Laws/Step.lean ====
section
/-! SUPPORT. What one step can do, said once (40_cycle.md R89). -/

set_option Elab.async false

namespace Sys2Proof.Machine

/-- A running core's step is fetch, decode, execute. -/
theorem step_of_running {s : State} (h : s.Running) :
    step s = match s.fetch with
      | .error t => .next (s.takeFault none t)
      | .ok w => match decodeWord w with
        | .error _ => .next s.advance
        | .ok i => exec i s := by
  obtain ⟨hf, hr⟩ := h
  unfold step
  rcases s.fetch with t | w
  · simp only [hf, hr]
  · rcases hd : decodeWord w with e | i <;> simp only [hf, hr, hd]

/-- Every way a step can answer a next state. -/
theorem step_cases {s t : State} (h : step s = .next t) :
    (s.fault = none ∧ s.run = .paused ∧ t = s) ∨
    (s.Running ∧ ∃ tr, s.fetch = .error tr ∧ t = s.takeFault none tr) ∨
    (s.Running ∧ ∃ w e, s.fetch = .ok w ∧ decodeWord w = .error e ∧ t = s.advance) ∨
    (s.Running ∧ ∃ w i, s.fetch = .ok w ∧ decodeWord w = .ok i ∧ exec i s = .next t) := by
  rcases hf : s.fault with _ | r
  · by_cases hr : s.run = .paused
    · rw [step, hf, hr] at h
      exact .inl ⟨rfl, hr, by simpa using h.symm⟩
    · have hs : s.Running := ⟨hf, by cases h' : s.run <;> simp_all⟩
      rw [step_of_running hs] at h
      rcases hw : s.fetch with tr | w
      · rw [hw] at h
        exact .inr (.inl ⟨hs, tr, rfl, by simpa using h.symm⟩)
      · rw [hw] at h
        rcases hd : decodeWord w with e | i
        · simp only [hd] at h
          exact .inr (.inr (.inl ⟨hs, w, e, rfl, hd, by simpa using h.symm⟩))
        · simp only [hd] at h
          exact .inr (.inr (.inr ⟨hs, w, i, rfl, hd, h⟩))
  · simp [step, hf] at h

/-- A fetch that fails: out of range with the address of 40_cycle.md R82, or a byte with no value. -/
theorem State.fetch_eq_error {s : State} {t : Trap} (h : s.fetch = .error t) :
    (4096 ≤ s.pc.toNat + 1 ∧ t = ⟨.addressOutOfRange, some (BitVec.ofNat 16 (max s.pc.toNat 0x1000))⟩) ∨
    (t.cause = .uninitialisedRead ∧ s.cfg.initPolicy = .unspecified) := by
  unfold State.fetch at h
  split at h
  · exact .inl ⟨‹_›, by simpa using h.symm⟩
  · have key : ∀ a, a < 4096 → s.loadByte a = .error t →
        t.cause = .uninitialisedRead ∧ s.cfg.initPolicy = .unspecified := by
      intro a ha he
      rcases State.loadByte_eq_error he with ⟨h', -⟩ | ⟨-, hb, rfl⟩
      · omega
      · exact ⟨rfl, State.unspecified_of_byteAt_none hb⟩
    rcases bind_eq_error.1 h with h | ⟨b, -, h⟩
    · exact .inr (key _ (by omega) h)
    · rcases bind_eq_error.1 h with h | ⟨c, -, h⟩
      · exact .inr (key _ (by omega) h)
      · simp at h

end Sys2Proof.Machine
end

