-- ==== Sys2Proof/Tests/Slice0.lean ====
section
/-! SUPPORT. Tests. Expected values are those of 95_test_vectors.md (the vector's name is in the comment) or of the
encodings of spec/opcode_table.json, never the model's own; then, for each statement with hypotheses, a state and
operands that meet them. -/

set_option Elab.async false

namespace Sys2Proof.Tests

open Sys2Proof Sys2Proof.Machine

/-! ## Well-formedness -/

theorem test_wellFormed_refuses_sixteen_rows : (Instr.drw 0 0 16).wellFormed = false := by decide
theorem test_wellFormed_accepts_fifteen_rows : (Instr.drw 0 0 15).wellFormed = true := by decide

/-! ## Decoding: one word per constructor, written from the row's encoding -/

/-- The instruction a word decodes to, if any. -/
def readsAs (w : Word) : Option Instr := (decodeWord w).toOption

theorem test_decode_control :
    readsAs 0b0000000011101110 = some .ret ∧ readsAs 0b0001001000001100 = some (.jp 0x20C) ∧
    readsAs 0b0010101010111100 = some (.call 0xABC) ∧ readsAs 0b0011001101000010 = some (.sei 3 0x42) ∧
    readsAs 0b0100001101000010 = some (.snei 3 0x42) ∧ readsAs 0b0101000100100000 = some (.se 1 2) ∧
    readsAs 0b1001000100100000 = some (.sne 1 2) := by decide
theorem test_decode_alu_loads :
    readsAs 0b0110101001111011 = some (.ldi 10 0x7B) ∧ readsAs 0b0111000100001010 = some (.addi 1 0x0A) ∧
    readsAs 0b1000000100100000 = some (.ld 1 2) ∧ readsAs 0b1000000100100001 = some (.or 1 2) ∧
    readsAs 0b1000000100100010 = some (.and 1 2) ∧ readsAs 0b1000000100100011 = some (.xor 1 2) := by decide
theorem test_decode_alu_flags :
    readsAs 0b1000000100100100 = some (.add 1 2) ∧ readsAs 0b1000000100100101 = some (.sub 1 2) ∧
    readsAs 0b1000000100100110 = some (.shl 1 2) ∧ readsAs 0b1000000100100111 = some (.subn 1 2) ∧
    readsAs 0b1000000100101110 = some (.shr 1 2) ∧ readsAs 0b1100001100001111 = some (.rnd 3 0x0F) := by decide
theorem test_decode_index_and_memory :
    readsAs 0b1010001100000000 = some (.ldidx 0x300) ∧ readsAs 0b1111001000011110 = some (.addidx 2) ∧
    readsAs 0b1111000000101001 = some (.ldf 0) ∧ readsAs 0b1111010100110011 = some (.ldb 5) ∧
    readsAs 0b1111111101010101 = some (.stm 15) ∧ readsAs 0b1111001101100101 = some (.ldm 3) := by decide
theorem test_decode_display_keypad_timers :
    readsAs 0b0000000011100000 = some .cls ∧ readsAs 0b1101000100101111 = some (.drw 1 2 15) ∧
    readsAs 0b1110101110011110 = some (.skp 11) ∧ readsAs 0b1110101110100001 = some (.sknp 11) ∧
    readsAs 0b1111011000000111 = some (.ldvdt 6) ∧ readsAs 0b1111001100001010 = some (.ldk 3) ∧
    readsAs 0b1111010100010101 = some (.lddtv 5) ∧ readsAs 0b1111010100011000 = some (.ldstv 5) := by decide

/-- V-DEC-2, 4, 5, 6, 7, 8, 9, 10 -/
theorem test_decode_unimplemented :
    [0x00E1#16, 0x0000#16, 0x0123#16, 0x00FF#16, 0x5121#16, 0x8008#16, 0x800F#16, 0x912F#16, 0xB200#16,
      0xE0FF#16, 0xF01F#16, 0xFFFF#16].all (fun w => (readsAs w).isNone) = true := by decide

/-- V-DEC-6, 9, 10, 11 -/
theorem test_decode_least_operands :
    readsAs 0x800E = some (.shr 0 0) ∧ readsAs 0xE19E = some (.skp 1) ∧ readsAs 0xE1A1 = some (.sknp 1) ∧
    readsAs 0xF065 = some (.ldm 0) ∧ readsAs 0xD000 = some (.drw 0 0 0) := by decide

/-- 20_memory.md R47: big-endian, the rest of the bytes left over -/
theorem test_decode_bytes :
    decodeBytes [0xA2, 0xF0, 0x12] = .ok (.ldidx 0x2F0, [0x12]) ∧
    decodeBytes [0x12] = .error (.truncated [0x12]) := ⟨rfl, rfl⟩

theorem test_decode_table_word :
    decodeTableWord 16 0xF365 = some (.ldm 3) ∧ decodeTableWord 16 0xB200 = none := by decide

/-- the encodings of 30_encoding.md R79, against the words of V-ALU, V-MEM, V-DRW and V-KEY -/
theorem test_encode :
    encode (.addi 1 10) = 0x710A ∧ encode (.sub 1 2) = 0x8125 ∧ encode (.drw 15 1 1) = 0xDF11 ∧
    encode (.call 0x210) = 0x2210 ∧ encode (.ldb 10) = 0xFA33 ∧ encode (.sknp 0) = 0xE0A1 := by decide

/-! ## Start states and observations -/

/-- The start of the vectors: reset, PC = 0x300. The font is left out of memory, to keep the tests small. -/
def start : State := { State.reset with mem := [], pc := 0x300 }

/-- The parameters changed by `f`. -/
def withCfg (f : Config → Config) (s : State) : State := { s with cfg := f s.cfg }

/-- V1 and V2. -/
def regs (a b : Byte) : State := (start.setV 1 a).setV 2 b

/-- `s` with I = w. -/
def index (w : Word) (s : State) : State := s.setI w

/-- The word in place at PC, one step, and what `f` sees of the next state. -/
def see {α : Type} (w : Word) (s : State) (f : State → α) : Option α :=
  match step (s.placeWord w) with
  | .next t => some (f t)
  | _ => none

/-- V[x], VF and PC. -/
def vfpc (x : Reg) (t : State) : Byte × Byte × Word := (t.v[x], t.v[(15 : Reg)], t.pc)

/-- The record a faulting vector gives. -/
def record (c : Cause) (code : Byte) (op : Word) (addr : Option Word) : Option FaultRecord :=
  some { cause := c, code := code, pc := 0x300, opcode := some op, addr := addr }

/-! ## One step -/

/-- V-ALU-1, 2 -/
theorem test_ldi : see 0x6A7B start (vfpc 10) = some (0x7B, 0, 0x302) := by decide
theorem test_addi_wraps : see 0x710A (regs 250 0) (vfpc 1) = some (4, 0, 0x302) := by decide
/-- V-ALU-3 -/
theorem test_addi_vf : see 0x7FFF start (vfpc 15) = some (0xFF, 0xFF, 0x302) := by decide
/-- V-ALU-4, 5, 6 -/
theorem test_ld : see 0x8120 (regs 0 0x55) (vfpc 1) = some (0x55, 0, 0x302) := by decide
theorem test_or : see 0x8121 ((regs 0x0F 0x30).setV 15 9) (vfpc 1) = some (0x3F, 9, 0x302) := by decide
theorem test_and : see 0x8122 (regs 0x3C 0x0F) (vfpc 1) = some (0x0C, 0, 0x302) := by decide
theorem test_xor : see 0x8123 (regs 0x3C 0x0F) (vfpc 1) = some (0x33, 0, 0x302) := by decide
/-- V-ALU-7, V-ALI-1 -/
theorem test_add : see 0x8124 (regs 200 100) (vfpc 1) = some (44, 1, 0x302) := by decide
theorem test_add_vf : see 0x8F14 ((regs 100 0).setV 15 200) (vfpc 15) = some (0x2C, 0x2C, 0x302) := by decide
/-- V-ALU-9, V-ALI-5 -/
theorem test_sub : see 0x8125 (regs 5 10) (vfpc 1) = some (251, 0, 0x302) := by decide
theorem test_sub_vf : see 0x80F5 ((start.setV 0 3).setV 15 5) (vfpc 0) = some (3, 0, 0x302) := by decide
/-- V-ALU-14, V-ALI-10 under flag_last -/
theorem test_shl : see 0x8126 (regs 0xFF 0x81) (vfpc 1) = some (2, 1, 0x302) := by decide
theorem test_shl_flagLast :
    see 0x8F16 (withCfg ({ · with aliasMode := .flagLast }) (regs 0x81 0)) (vfpc 15) = some (1, 1, 0x302) := by decide
/-- V-ALU-13, V-ALI-8 -/
theorem test_subn : see 0x8127 (regs 10 5) (vfpc 1) = some (251, 0, 0x302) := by decide
theorem test_subn_vf : see 0x80F7 ((start.setV 0 3).setV 15 10) (vfpc 0) = some (0xFE, 1, 0x302) := by decide
/-- V-ALU-16, V-ALI-13 under fault -/
theorem test_shr : see 0x812E (regs 0 0x81) (vfpc 1) = some (0x40, 1, 0x302) := by decide
theorem test_shr_refused :
    see 0x8F1E (withCfg ({ · with aliasMode := .fault }) (regs 0x81 0)) (fun t => (t.v[(15 : Reg)], t.pc, t.fault)) =
      some (0, 0x300, record .aliasRefused 0x81 0x8F1E none) := by decide
/-- V-ALU-19 -/
theorem test_rnd : see 0xC30F { start with rand := 0xA5 } (vfpc 3) = some (5, 0, 0x302) := by decide

/-- V-MEM-1 -/
theorem test_ldidx : see 0xA300 start (fun t => (t.i, t.pc)) = some (0x300, 0x302) := by decide
/-- V-MEM-4, 5 -/
theorem test_addidx : see 0xF11E (index 0xFFF (regs 1 0)) (fun t => (t.i, t.v[(15 : Reg)])) = some (0x1000, 1) := by
  decide
theorem test_addidx_wraps : see 0xF11E (index 0xFFFF (regs 1 0)) (fun t => (t.i, t.v[(15 : Reg)])) = some (0, 1) := by
  decide
/-- V-MEM-8 -/
theorem test_ldf : see 0xF029 (start.setV 0 0xFF) (·.i) = some 0x54B := by decide
/-- V-MEM-9, 11 -/
theorem test_ldb :
    see 0xF533 (index 0x400 (start.setV 5 123)) (fun t => (t.byteAt 0x400, t.byteAt 0x401, t.byteAt 0x402, t.i)) =
      some (some 1, some 2, some 3, 0x400) := by decide
theorem test_ldb_beyond :
    see 0xF533 (index 0xFFE (start.setV 5 7)) (fun t => (t.byteAt 0xFFE, t.fault)) =
      some (some 0, record .addressOutOfRange 3 0xF533 (some 0x1000)) := by decide
/-- V-MEM-13 -/
theorem test_stm :
    see 0xFF55 (index 0xFF0 ((start.setV 0 7).setV 15 9)) (fun t => (t.byteAt 0xFF0, t.byteAt 0xFFF, t.fault)) =
      some (some 7, some 9, none) := by decide
theorem test_stm_beyond :
    see 0xFF55 (index 0xFF1 (start.setV 0 7)) (fun t => (t.byteAt 0xFF1, t.fault)) =
      some (some 0, record .addressOutOfRange 3 0xFF55 (some 0x1000)) := by decide
/-- V-MEM-9's digits read back; V-MEM-15 -/
theorem test_ldm :
    see 0xF165 (index 0x400 ((regs 9 9).storeBytes 0x400 [1, 2, 3])) (fun t => (t.v[(0 : Reg)], t.v[(1 : Reg)],
      t.v[(2 : Reg)], t.i)) = some (1, 2, 9, 0x400) := by decide
theorem test_ldm_beyond :
    see 0xF365 (index 0xFFE (start.storeBytes 0xFFE [0x11, 0x22])) (fun t => (t.v[(0 : Reg)], t.fault)) =
      some (0, record .addressOutOfRange 3 0xF365 (some 0x1000)) := by decide

/-- V-CF: 41_control_flow.md R98, R99, R97 -/
theorem test_jp : see 0x120C start (·.pc) = some 0x20C := by decide
theorem test_call : see 0x2ABC start (fun t => (t.pc, t.sp, t.stack[0])) = some (0xABC, 1, 0x302) := by decide
theorem test_call_overflows :
    see 0x2ABC { start with sp := 12 } (fun t => (t.pc, t.sp, t.fault)) =
      some (0x300, 12, record .stackOverflow 1 0x2ABC none) := by decide
theorem test_ret :
    see 0x00EE { start with sp := 1, stack := start.stack.set 0 0x206 } (fun t => (t.pc, t.sp)) = some (0x206, 0) := by
  decide
theorem test_ret_underflows :
    see 0x00EE start (fun t => (t.pc, t.fault)) = some (0x300, record .stackUnderflow 2 0x00EE none) := by decide
theorem test_sei : see 0x3342 (start.setV 3 0x42) (·.pc) = some 0x304 ∧ see 0x3342 start (·.pc) = some 0x302 := by
  decide
theorem test_snei : see 0x4342 (start.setV 3 0x42) (·.pc) = some 0x302 ∧ see 0x4342 start (·.pc) = some 0x304 := by
  decide
theorem test_se : see 0x5120 (regs 4 4) (·.pc) = some 0x304 ∧ see 0x5120 (regs 4 5) (·.pc) = some 0x302 := by decide
theorem test_sne : see 0x9120 (regs 4 4) (·.pc) = some 0x302 ∧ see 0x9120 (regs 4 5) (·.pc) = some 0x304 := by decide

/-- A cell. -/
def cell (t : State) (x : Fin 64) (y : Fin 32) : Bool := (t.fb[y])[x]

/-- `s` with a true cell at (11, 10). -/
def lit : State := { start with fb := start.fb.set 10 ((start.fb[10]).set 11 true) }

/-- V-DRW-1 -/
theorem test_cls : see 0x00E0 (lit.setV 15 5) (fun t => (cell t 11 10, t.v[(15 : Reg)])) = some (false, 5) := by decide
/-- V-DRW-6 -/
theorem test_drw_collides :
    see 0xD121 (index 0x600 (((lit.setV 1 10).setV 2 10).storeBytes 0x600 [0xC0]))
      (fun t => (cell t 10 10, cell t 11 10, t.v[(15 : Reg)])) = some (true, false, 1) := by decide
/-- V-DRW-5 -/
theorem test_drw_clips :
    see 0xD125 (index 0x600 ((regs 60 30).storeBytes 0x600 [0xFF, 0xFF, 0xFF, 0xFF, 0xFF]))
      (fun t => (cell t 63 30, cell t 60 31, cell t 59 30, cell t 0 30, cell t 60 0, t.v[(15 : Reg)])) =
      some (true, true, false, false, false, 0) := by decide

/-- `s` with key k pressed. -/
def press (k : Reg) (s : State) : State := { s with keys := s.keys.set k.val true k.isLt }

/-- V-KEY-1, 4 -/
theorem test_skp : see 0xE09E (press 3 (start.setV 0 3)) (·.pc) = some 0x304 := by decide
theorem test_skp_beyond :
    see 0xE09E (start.setV 0 16) (fun t => (t.pc, t.fault)) =
      some (0x300, record .keyIndexOutOfRange 4 0xE09E (some 16)) := by decide
/-- V-KEY-3, 6 -/
theorem test_sknp : see 0xE0A1 (start.setV 0 3) (·.pc) = some 0x304 := by decide
theorem test_sknp_mask :
    see 0xE0A1 (withCfg ({ · with keyIndexPolicy := .mask }) (start.setV 0 0x20)) (·.pc) = some 0x304 := by decide
/-- V-KEY-8, 7 -/
theorem test_ldk : see 0xF30A (press 9 (press 5 start)) (vfpc 3) = some (5, 0, 0x302) := by decide
theorem test_ldk_waits : see 0xF30A (start.setV 3 0x77) (vfpc 3) = some (0x77, 0, 0x300) := by decide
/-- V-TIM-4, 7 -/
theorem test_lddtv : see 0xF515 (start.setV 5 0x3C) (fun t => (t.dt, t.pc)) = some (0x3C, 0x302) := by decide
theorem test_ldvdt : see 0xF607 (start.setDt 0x3C) (vfpc 6) = some (0x3C, 0, 0x302) := by decide
theorem test_ldstv : see 0xF518 (start.setV 5 2) (·.st) = some 2 := by decide

/-! ## The step, the other transactions -/

/-- V-CYC-1 -/
theorem test_step_unimplemented :
    see 0x0123 (start.setV 15 3) (fun t => (t.pc, t.v[(15 : Reg)], t.fault)) = some (0x302, 3, none) ∧
    stepReport (start.placeWord 0x0123) = .unimplemented 0x300 0x0123 := by decide
/-- V-CYC-2 -/
theorem test_step_beyond_memory :
    stepReport { start with pc := 0xFFF } =
      .faulted { cause := .addressOutOfRange, code := 3, pc := 0xFFF, opcode := none, addr := some 0x1000 } := by
  decide
/-- V-CYC-3 -/
theorem test_step_last_word :
    see 0x6123 { start with pc := 0xFFE } (fun t => (t.v[(1 : Reg)], t.pc, t.fault)) = some (0x23, 0x1000, none) := by
  decide
/-- V-TIM-1, 2 -/
theorem test_tick :
    ((start.setDt 1).setSt 1).tick.dt = 0 ∧ ((start.setDt 1).setSt 1).tickTone = some true ∧
    ((start.setDt 1).setSt 2).tickTone = some false := by decide
theorem test_tick_paused :
    (({ start with st := 1, run := .paused } : State).tick).st = 1 ∧
    stepReport { start with run := .paused } = .notRunning := by decide
/-- 60_exceptions.md R139 and 10_state.md R33, each under its setting: a fetch of a byte with no value at 0x300 -/
theorem test_uninitialised_address :
    stepReport (withCfg ({ · with initPolicy := .unspecified }) start) =
      .faulted { cause := .uninitialisedRead, code := 0x80, pc := 0x300, opcode := none, addr := some 0x300 } ∧
    stepReport (withCfg ({ · with initPolicy := .unspecified, uninitialisedAddr := .omitted }) start) =
      .faulted { cause := .uninitialisedRead, code := 0x80, pc := 0x300, opcode := none, addr := none } := by decide
/-- 10_state.md R39: under INIT_POLICY = unspecified a read of ST before a write is UninitialisedRead -/
theorem test_read_sound_timer :
    Transaction.readSoundTimer.response ({ start with unset := { start.unset with st := true } }) = .soundTimer 0 ∧
    Transaction.readSoundTimer.response (withCfg ({ · with initPolicy := .unspecified })
      { start with unset := { start.unset with st := true } }) =
      .faulted { cause := .uninitialisedRead, code := 0x80, pc := 0x300, opcode := none, addr := none } ∧
    Transaction.readSoundTimer.response ((withCfg ({ · with initPolicy := .unspecified }) start).setSt 7) =
      .soundTimer 7 := by decide
/-- V-RST-1 -/
theorem test_reset :
    State.reset.pc = 0x200 ∧ State.reset.byteAt 0x050 = some 0xF0 ∧ State.reset.byteAt 0x09F = some 0x80 ∧
    State.reset.byteAt 0x0A0 = some 0 ∧ State.reset.byteAt 0x04F = some 0 := by decide
/-- V-RST-4 -/
theorem test_reset_image :
    stepReport (start.resetWith [0x12, 0x0C]) = .ok ∧
    ((start.resetWith [0x12, 0x0C]).stepWith 0).pc = 0x20C := by decide
theorem test_with_fetch_word :
    (State.reset.withFetchWord 16 0x6A7B).fetch = .ok 0x6A7B ∧
    (({ start with pc := 0xFFF, run := .paused } : State).withFetchWord 16 0x6A7B).fetch = .ok 0x6A7B := ⟨rfl, rfl⟩

/-! ## Witnesses: for each statement with hypotheses, states and operands that meet them, clause by clause -/

/-- `s` steps to a next state of which `p` holds. -/
def stepsTo (p : State → Bool) (s : State) : Bool :=
  match step s with
  | .next t => p t
  | _ => false

/-- `i` takes `s` to a next state of which `p` holds. -/
def runsTo (p : State → Bool) (i : Instr) (s : State) : Bool :=
  match exec i s with
  | .next t => p t
  | _ => false

theorem stepsTo_next {p : State → Bool} {s : State} (h : stepsTo p s = true) : ∃ t, step s = .next t ∧ p t = true := by
  unfold stepsTo at h
  split at h
  · exact ⟨_, ‹_›, h⟩
  · simp at h

theorem runsTo_next {p : State → Bool} {i : Instr} {s : State} (h : runsTo p i s = true) :
    ∃ t, exec i s = .next t ∧ p t = true := by
  unfold runsTo at h
  split at h
  · exact ⟨_, ‹_›, h⟩
  · simp at h

/-- A state that is FAULTED. -/
def faulted : State := start.faultedWith none .addressOutOfRange 3 (some 0x1000)

/-- The start state under INIT_POLICY = unspecified, no register and no byte with a value. -/
def blank : State :=
  { start with cfg := { start.cfg with initPolicy := .unspecified }, unset := (State.initial { start.cfg with initPolicy := .unspecified }).unset }

/-- The start state with the word to run in place. -/
def fetching (w : Word) : State := start.placeWord w

/-! ### Encoding -/

theorem witness_DecodeOfEncodeIsIdentity : (Instr.drw 15 15 15).wellFormed = true := by decide
theorem witness_EncodeOfDecodeIsTheWord : decodeWord 0xDFFF = .ok (.drw 15 15 15) := rfl
theorem witness_DecoderSelectsByMaskAndMatch :
    decodeWord 0xFF65 = .ok (.ldm 15) ∧ matchesRow 0xFF65 (.ldm 0) = true ∧ ∀ i, matchesRow 0xB200 i = false :=
  ⟨rfl, by decide, fun i => by
    cases i <;> (simp only [matchesRow, Instr.mask, Instr.pattern]; exact decide_eq_false (by decide))⟩
/-- 42_alu.md R114, R116: the two shifts are two rows -/
theorem test_shifts_are_two_rows : (Instr.shl 1 2).ctorIdx ≠ (Instr.shr 1 2).ctorIdx := by decide
theorem witness_PatternsOfTwoRowsNeverMatchOneWord :
    matchesRow 0x8FFE (.shr 0 0) = true ∧ matchesRow 0x8FFE (.shr 15 15) = true := by decide

/-! ### The step -/

theorem witness_StepRunsTheDecodedInstruction :
    let s := ({ start with pc := 0xFFE } : State).placeWord 0x6123
    s.Running ∧ s.pc.toNat + 1 < 4096 ∧ s.byteAt s.pc.toNat = some 0x61 ∧ s.byteAt (s.pc.toNat + 1) = some 0x23 ∧
      decodeWord (0x61#8 ++ 0x23#8) = .ok (.ldi 1 0x23) :=
  ⟨by decide, by decide, by decide, by decide, rfl⟩
theorem witness_UnimplementedWordOnlyAdvancesPc :
    (fetching 0xB200).Running ∧ (fetching 0xB200).fetch = .ok 0xB200 ∧
      decodeWord 0xB200 = .error (.unimplemented 0xB200) := ⟨by decide, rfl, rfl⟩
theorem witness_FetchFaultsExactlyBeyondMemory :
    (({ start with pc := 0xFFF } : State).Running ∧ 4096 ≤ ({ start with pc := 0xFFF } : State).pc.toNat + 1) ∧
    (({ start with pc := 0x1000 } : State).Running ∧ 4096 ≤ ({ start with pc := 0x1000 } : State).pc.toNat + 1) ∧
    (({ start with pc := 0xFFE } : State).pc.toNat + 1 < 4096 ∧
      ({ start with pc := 0xFFE } : State).byteAt 0xFFE = some 0 ∧
      ({ start with pc := 0xFFE } : State).byteAt 0xFFF = some 0) := by decide
theorem witness_FaultedAndPausedCoresDoNotStep :
    faulted.fault = some { cause := .addressOutOfRange, code := 3, pc := 0x300, opcode := none, addr := some 0x1000 } ∧
    ({ start with run := .paused } : State).fault = none ∧ ({ start with run := .paused } : State).run = .paused := by
  decide
theorem witness_FaultingStepCommitsNothing :
    (fetching 0x00EE).Running ∧ ∃ t, step (fetching 0x00EE) = .next t ∧ t.fault.isSome = true :=
  ⟨by decide, stepsTo_next (by decide)⟩
theorem witness_ParkedCoreIsAFixedPoint : (fetching 0x1300).Parked :=
  ⟨by decide, 0x300, ⟨0x1300, rfl, rfl⟩, by decide⟩

/-! ### Invariants and whole-machine rules -/

theorem witness_StepKeepsInv : (fetching 0x2ABC).Inv ∧ ∃ t, step (fetching 0x2ABC) = .next t ∧ t.sp = 1 := by
  refine ⟨⟨by decide, by decide, by decide, ?_, ?_, ?_⟩, ?_⟩
  · intro r h; cases h
  · intro r h; cases h
  · intro r h; cases h
  · obtain ⟨t, h, hp⟩ := stepsTo_next (p := fun t => decide (t.sp = 1)) (s := fetching 0x2ABC) (by decide)
    exact ⟨t, h, of_decide_eq_true hp⟩
theorem witness_EveryTransactionKeepsInv : (fetching 0x2ABC).Inv := witness_StepKeepsInv.1
theorem witness_StepWritesTimersOnlyByFx15AndFx18 :
    (∃ t, step ((start.setV 5 9).placeWord 0xF515) = .next t ∧ decide (t.dt ≠ start.dt) = true) ∧
    (∃ t, step ((start.setV 5 9).placeWord 0xF518) = .next t ∧ decide (t.st ≠ start.st) = true) :=
  ⟨stepsTo_next (by decide), stepsTo_next (by decide)⟩
theorem witness_StepWritesFramebufferOnlyByClearAndDraw :
    (∃ t, step (lit.placeWord 0x00E0) = .next t ∧ cell t 11 10 = false) ∧
    (∃ t, step ((start.setI 0x300).placeWord 0xD001) = .next t ∧ cell t 0 0 = true) := by
  refine ⟨?_, stepsTo_next (by decide)⟩
  obtain ⟨t, h, hp⟩ := stepsTo_next (p := fun t => !cell t 11 10) (s := lit.placeWord 0x00E0) (by decide)
  exact ⟨t, h, by simpa using hp⟩
theorem witness_NonStoringInstructionsKeepEveryByte :
    (∃ t, exec (.ldm 15) start = .next t ∧ decide (t.pc = 0x302) = true) ∧ (Instr.ldm 15).stores = false :=
  ⟨runsTo_next (by decide), rfl⟩
theorem witness_StoresKeepEverythingElse :
    Memory.wf start.cfg.initPolicy.unlisted start.mem ∧
    (∃ t, exec (.ldb 5) (start.setI 0xFFD) = .next t ∧ decide (t.fault = none) = true) ∧
    (∃ t, exec (.stm 15) (start.setI 0xFF0) = .next t ∧ decide (t.fault = none) = true) :=
  ⟨by decide, runsTo_next (by decide), runsTo_next (by decide)⟩
theorem witness_OnlyCallAndReturnTouchTheStack :
    (∃ t, exec (.call 0xABC) start = .next t ∧ decide (t.sp ≠ start.sp ∧ t.stack ≠ start.stack) = true) ∧
    (∃ t, exec .ret { start with sp := 1 } = .next t ∧ decide (t.sp ≠ 1) = true) :=
  ⟨runsTo_next (by decide), runsTo_next (by decide)⟩
theorem witness_OnlyIndexInstructionsWriteI :
    (∃ t, exec (.ldidx 0x300) start = .next t ∧ decide (t.i ≠ start.i) = true) ∧
    (∃ t, exec (.addidx 1) (regs 1 0) = .next t ∧ decide (t.i ≠ start.i) = true) ∧
    (∃ t, exec (.ldf 1) (regs 1 0) = .next t ∧ decide (t.i ≠ start.i) = true) :=
  ⟨runsTo_next (by decide), runsTo_next (by decide), runsTo_next (by decide)⟩
theorem witness_OnlyListedRegistersAreWritten :
    (∃ t, exec (.add 1 2) (regs 200 100) = .next t ∧ decide (t.v[(15 : Reg)] = 1) = true) ∧
    (Instr.add 1 2).mayWriteV start.cfg 2 = false := ⟨runsTo_next (by decide), by decide⟩
theorem witness_InstructionsLeaveInputsAndParametersAlone :
    (∃ t, exec (.ldk 3) (press 2 start) = .next t ∧ decide (t.v[(3 : Reg)] = 2) = true) ∧
    ∀ x nn, Instr.ldk 3 ≠ .rnd x nn := ⟨runsTo_next (by decide), fun _ _ => by simp⟩
theorem witness_RandomByteMattersToCxnnAlone :
    (∀ x nn, Instr.addi 1 10 ≠ .rnd x nn) ∧
    ∃ t, exec (.addi 1 10) (regs 250 0) = .next t ∧ decide (t.v[(1 : Reg)] = 4) = true :=
  ⟨fun _ _ => by simp, runsTo_next (by decide)⟩
theorem witness_SoundTimerIsReadByNoInstruction :
    ∃ t, exec (.ldstv 5) (start.setV 5 2) = .next t ∧ decide (t.st = 2) = true := runsTo_next (by decide)
theorem witness_DeadStackEntriesAreUnobservable :
    let s : State := { start with sp := 1, stack := start.stack.set 0 0x206 }
    (∃ t, exec .ret s = .next t ∧ decide (t.pc = 0x206) = true) ∧
    ∀ (j : Nat) (h : j < 12), j < s.sp.val → ((s.stack).set 1 0xABC)[j] = s.stack[j] :=
  ⟨runsTo_next (by decide), by decide⟩
theorem witness_FaultedIsTerminalUntilReset :
    (∃ r, faulted.fault = some r) ∧ ∀ image, Transaction.reset image ∉ [.tick, .step 7, .setRun .paused, .setRun .running] :=
  ⟨⟨_, rfl⟩, fun _ => by simp⟩

/-! ### Results -/

/-- The premise "V[X] and V[Y] have values" of the arithmetic, skip, key and timer statements, at both ends of the
register file. -/
theorem witness_registers_have_values :
    (∀ r : Reg, start.valuelessV r = false) ∧ start.valuelessI = false ∧ start.valuelessDt = false ∧
    start.valuelessSt = false := by decide
theorem witness_AddImmediateWrapsWithoutFlag : (regs 250 0).valuelessV 1 = false := by decide
theorem witness_RegisterLoadsWriteTheirOperand : (regs 0 0x55).valuelessV 2 = false := by decide
theorem witness_LogicWritesTheBitwiseResult : start.valuelessV 0 = false ∧ start.valuelessV 15 = false := by decide
theorem witness_AddWritesSumAndCarry : start.valuelessV 0 = false ∧ start.valuelessV 15 = false := by decide
/-- Clauses: neither operand VF, one of them VF. -/
theorem witness_SubtractWritesDifferenceAndNoBorrow :
    start.valuelessV 14 = false ∧ start.valuelessV 15 = false ∧ (14 : Reg) ≠ 15 := by decide
theorem witness_ReverseSubtractWritesDifferenceAndNoBorrow :
    start.valuelessV 14 = false ∧ start.valuelessV 15 = false ∧ (14 : Reg) ≠ 15 := by decide
theorem witness_ShiftLeftTakesTheSourceFromVy : start.valuelessV 15 = false := by decide
theorem witness_ShiftRightTakesTheSourceFromVy : start.valuelessV 15 = false := by decide
theorem witness_AliasRefusedExactlyUnderFaultMode :
    let s := withCfg ({ · with aliasMode := .fault }) start
    Instr.shr 0 15 ∈ [Instr.add 0 15, .sub 0 15, .shl 0 15, .subn 0 15, .shr 0 15] ∧ s.cfg.aliasMode = .fault ∧
    s.fault = none ∧ ∃ t, exec (.shr 0 15) s = .next t ∧
      decide (t.fault.map (·.cause) = some .aliasRefused) = true :=
  ⟨by decide, by decide, by decide, runsTo_next (by decide)⟩

/-! ### Control transfer -/

theorem witness_CallPushesTheReturnAddress :
    ({ start with sp := 11 } : State).sp.val < 12 ∧ ({ start with sp := 12 } : State).sp = 12 := by decide
theorem witness_ReturnPopsPc : ({ start with sp := 1 } : State).sp.val ≠ 0 ∧ start.sp = 0 := by decide
theorem witness_CallThenReturnResumesAfterTheCall :
    let s : State := { start with sp := 11 }
    s.sp.val < 12 ∧ ∃ t, exec (.call 0xABC) s = .next t ∧ decide (t.sp = 12) = true :=
  ⟨by decide, runsTo_next (by decide)⟩
theorem witness_CallBeyondTwelveOverflows :
    start.fault = none ∧ start.sp.val + (List.replicate 12 (0x200 : BitVec 12)).length ≤ 12 := by decide
theorem witness_SkipsMovePcByTheirCondition : start.valuelessV 0 = false ∧ start.valuelessV 15 = false := by decide

/-! ### Index register and memory transfer -/

theorem witness_IndexLoadsGiveTheirAddress : (start.setV 15 0xFF).valuelessV 15 = false := by decide
theorem witness_AddToIndexWrapsAndFlags :
    (start.setI 0xFFFF).valuelessI = false ∧ (start.setI 0xFFFF).valuelessV 15 = false := by decide
/-- Clauses: I + 2 just beyond memory; a low store just refused; a store just accepted by both checks. -/
theorem witness_DecimalStoreWritesThreeDigits :
    let s := withCfg ({ · with lowWritePolicy := .fault }) start
    s.valuelessV 5 = false ∧ s.valuelessI = false ∧ Memory.wf s.cfg.initPolicy.unlisted s.mem ∧
    (s.setI 0xFFE).i.toNat + 2 ≥ 4096 ∧ (s.setI 0xFFD).i.toNat + 2 < 4096 ∧
    (s.cfg.lowWritePolicy = .fault ∧ (s.setI 0x1FF).i.toNat < 0x200) ∧ ¬ (s.setI 0x200).i.toNat < 0x200 := by decide
theorem witness_RegisterStoreWritesTheRange :
    let s := withCfg ({ · with lowWritePolicy := .fault }) start
    s.valuelessI = false ∧ Memory.wf s.cfg.initPolicy.unlisted s.mem ∧
    (s.setI 0xFF1).i.toNat + (15 : Reg).val ≥ 4096 ∧ (s.setI 0xFF0).i.toNat + (15 : Reg).val < 4096 ∧
    (s.cfg.lowWritePolicy = .fault ∧ (s.setI 0x1FF).i.toNat < 0x200) ∧
    (¬ (s.setI 0x200).i.toNat < 0x200 ∧ ∀ r : Reg, r ≤ 15 → s.valuelessV r = false) := by decide
theorem witness_RegisterLoadReadsTheRange :
    start.valuelessI = false ∧ (start.setI 0xFF1).i.toNat + (15 : Reg).val ≥ 4096 ∧
    (start.setI 0xFF0).i.toNat + (15 : Reg).val < 4096 ∧
    ∀ k < 16, (start.setI 0xFF0).byteAt ((start.setI 0xFF0).i.toNat + k) ≠ none := by decide
theorem witness_StoreThenLoadRestoresRegisters :
    let s := (regs 7 9).setI 0xFF0
    let u := (start.setI 0xFF0).storeBytes 0xFF0 [0, 7, 9, 0, 0, 0, 0, 0, 0, 0, 0, 0, 0, 0, 0, 0]
    Memory.wf s.cfg.initPolicy.unlisted s.mem ∧ s.fault = none ∧ u.fault = none ∧
    (∃ t, exec (.stm 15) s = .next t ∧
      decide (t.fault = none ∧ u.mem = t.mem ∧ u.cfg = t.cfg ∧ u.i = t.i) = true) ∧
    ∃ w, exec (.ldm 15) u = .next w ∧ decide (w.fault = none) = true :=
  ⟨by decide, by decide, by decide, runsTo_next (by decide), runsTo_next (by decide)⟩

/-! ### Framebuffer -/

/-- Clauses: no row; the sprite just beyond memory; the sprite just inside it, its rows with values. -/
theorem witness_DrawXorsTheSpriteAndFlagsCollision :
    start.valuelessV 1 = false ∧ start.valuelessV 2 = false ∧ start.valuelessI = false ∧
    (start.setI 0xFFE).i.toNat + 3 - 1 ≥ 4096 ∧ (start.setI 0xFFD).i.toNat + 3 - 1 < 4096 ∧
    ∀ k < 3, (start.setI 0xFFD).byteAt ((start.setI 0xFFD).i.toNat + k) ≠ none := by decide
theorem witness_DrawingTwiceRestoresTheScreen :
    let s := ((regs 3 4).setI 0x600).storeBytes 0x600 [0xC0]
    let u := { s with fb := (s.fb.set 4 (((s.fb[4]).set 3 true).set 4 true)) }
    s.fault = none ∧ u.fault = none ∧
    (∃ t, exec (.drw 1 2 1) s = .next t ∧ decide (t.fault = none ∧ u.fb = t.fb) = true) ∧
    (∃ w, exec (.drw 1 2 1) u = .next w ∧ decide (w.fault = none ∧ w.v[(15 : Reg)] = 1) = true) ∧
    u.i = s.i ∧ (∀ a, u.byteAt a = s.byteAt a) ∧ u.v[(1 : Reg)].toNat % 64 = s.v[(1 : Reg)].toNat % 64 ∧
    u.v[(2 : Reg)].toNat % 32 = s.v[(2 : Reg)].toNat % 32 :=
  ⟨by decide, by decide, runsTo_next (by decide), runsTo_next (by decide), rfl, fun _ => rfl, rfl, rfl⟩

/-! ### Keypad and timers -/

/-- Clauses: the least index refused, the greatest accepted, and an index above 0xF under `mask`. -/
theorem witness_KeySkipsFollowTheLatch :
    (start.setV 0 16).valuelessV 0 = false ∧
    ((start.setV 0 16).v[(0 : Reg)].toNat > 15 ∧ (start.setV 0 16).cfg.keyIndexPolicy = .fault) ∧
    (¬ (start.setV 0 15).v[(0 : Reg)].toNat > 15 ∧ (15 : Reg).val = (start.setV 0 15).v[(0 : Reg)].toNat % 16) ∧
    ((withCfg ({ · with keyIndexPolicy := .mask }) start).cfg.keyIndexPolicy ≠ .fault ∧
      (0 : Reg).val = (start.setV 0 16).v[(0 : Reg)].toNat % 16) := by decide
theorem witness_WaitForKeyTakesTheLowestPressed :
    (∀ k : Reg, start.keys[k] = false) ∧
    (press 15 start).keys[(15 : Reg)] = true ∧ (∀ j : Reg, j < 15 → (press 15 start).keys[j] = false) := by decide
theorem witness_TimerInstructionsCopyTheirRegister : start.valuelessDt = false ∧ start.valuelessV 15 = false := by
  decide
theorem witness_TicksCountDownToZeroAndToneOnce :
    start.Running ∧ start.valuelessSt = false ∧ ¬ faulted.Running ∧
    ¬ ({ start with run := .paused } : State).Running := by decide

/-! ### Reset and initialisation -/

theorem witness_ResetLoadsFontAndImage : (List.replicate 3584 (0 : Byte)).length ≤ 3584 :=
  Nat.le_of_eq List.length_replicate
theorem witness_ResetRejectsAnOverlongImage : 3584 < (List.replicate 3585 (0 : Byte)).length := by
  rw [List.length_replicate]; decide
theorem witness_ReadingAValuelessRegisterFaults :
    blank.valuelessV 0 = true ∧ blank.valuelessV 15 = true ∧
    ¬ (blank.cfg.aliasMode = .fault ∧ ((0 : Reg) = 15 ∨ (15 : Reg) = 15)) ∧ blank.valuelessI = true ∧
    (blank.setI 0xFF0).valuelessI = false ∧ (blank.setI 0xFF0).i.toNat + (15 : Reg).val < 4096 ∧
    ¬ ((blank.setI 0xFF0).cfg.lowWritePolicy = .fault ∧ (blank.setI 0xFF0).i.toNat < 0x200) ∧
    (blank.setI 0xFF0).valuelessV 15 = true ∧ blank.valuelessDt = true ∧ blank.valuelessSt = true ∧
    start.valuelessSt = false := by decide
/-- I at the last two bytes of memory, of which only the first has a value; a draw's start row is 30. -/
def halfRow : State := (((blank.setV 1 0).setV 2 30).setI 0xFFE).storeBytes 0xFFE [0]

/-- Clauses: the first byte of a fetch, the second; the last byte of an FX65; the last row of a DXYN. -/
theorem witness_ReadingAValuelessByteFaults :
    (blank.Running ∧ blank.pc.toNat + 1 < 4096 ∧ blank.byteAt 0x300 = none) ∧
    ((blank.storeBytes 0x300 [0]).byteAt 0x300 ≠ none ∧ (blank.storeBytes 0x300 [0]).byteAt 0x301 = none) ∧
    (halfRow.valuelessI = false ∧ halfRow.i.toNat + (1 : Reg).val < 4096 ∧
      halfRow.byteAt (halfRow.i.toNat + 1) = none ∧ ∀ j < 1, halfRow.byteAt (halfRow.i.toNat + j) ≠ none) ∧
    (halfRow.valuelessV 1 = false ∧ halfRow.valuelessV 2 = false ∧ halfRow.i.toNat + 2 ≤ 4096 ∧
      halfRow.v[(2 : Reg)].toNat % 32 + 1 < 32) := by decide

end Sys2Proof.Tests
end

section
/-! PROOFS. Control transfer (41_control_flow.md R97 to R103): the words of 30_encoding.md R68 as an or of shifted
fields, an equation per outcome of each instruction, and the obligations put together from them. -/

namespace Sys2Proof

/-! ## The three word layouts as the statements write them -/

theorem setWidth_fieldOfReg (x : Reg) : (fieldOfReg x).setWidth 16 = BitVec.ofNat 16 x.val := by
  simpa [fieldOfReg] using BitVec.setWidth_ofNat_of_le_of_lt (by decide : 4 ≤ 16) x.isLt

theorem encodeNNN_eq_or (op : BitVec 4) (nnn : BitVec 12) :
    encodeNNN op nnn = op.setWidth 16 <<< 12 ||| nnn.setWidth 16 := by
  calc encodeNNN op nnn = (op ++ nnn).setWidth 16 := (BitVec.setWidth_eq _).symm
    _ = _ := BitVec.setWidth_append_eq_shiftLeft_setWidth_or

theorem encodeXNN_eq_or (op : BitVec 4) (x : Reg) (nn : Byte) :
    encodeXNN op x nn = op.setWidth 16 <<< 12 ||| BitVec.ofNat 16 x.val <<< 8 ||| nn.setWidth 16 := by
  calc encodeXNN op x nn = (op ++ fieldOfReg x ++ nn).setWidth 16 := (BitVec.setWidth_eq _).symm
    _ = _ := by rw [BitVec.setWidth_append_append_eq_shiftLeft_setWidth_or, setWidth_fieldOfReg]

theorem encodeXYN_eq_or (op : BitVec 4) (x y : Reg) (n : BitVec 4) :
    encodeXYN op x y n =
      op.setWidth 16 <<< 12 ||| BitVec.ofNat 16 x.val <<< 8 ||| BitVec.ofNat 16 y.val <<< 4 ||| n.setWidth 16 := by
  calc encodeXYN op x y n = (op ++ fieldOfReg x ++ fieldOfReg y ++ n).setWidth 16 := (BitVec.setWidth_eq _).symm
    _ = _ := by
      rw [BitVec.setWidth_append_append_append_eq_shiftLeft_setWidth_or, setWidth_fieldOfReg, setWidth_fieldOfReg]

/-- With N = 0 the last field adds no bit. -/
theorem encodeXYN_zero_eq_or (op : BitVec 4) (x y : Reg) :
    encodeXYN op x y 0#4 =
      op.setWidth 16 <<< 12 ||| BitVec.ofNat 16 x.val <<< 8 ||| BitVec.ofNat 16 y.val <<< 4 := by
  rw [encodeXYN_eq_or, BitVec.setWidth_zero, BitVec.or_zero]

namespace Machine

/-! ## What each control transfer answers -/

theorem exec_jp (nnn : BitVec 12) (s : State) : exec (.jp nnn) s = .next { s with pc := nnn.setWidth 16 } := rfl

/-- A call below capacity pushes the address after itself. -/
theorem exec_call_of_lt (nnn : BitVec 12) {s : State} (h : s.sp.val < 12) :
    exec (.call nnn) s = .next { s with
      stack := s.stack.set s.sp.val (s.pc + 2) h, sp := ⟨s.sp.val + 1, by omega⟩, pc := nnn.setWidth 16 } := by
  show s.commit (.call nnn) (s.advance.push (s.pc + 2) >>= _) = _
  rw [State.push_ok (s := s.advance) h]
  rfl

theorem exec_call_full (nnn : BitVec 12) {s : State} (h : s.sp.val = 12) :
    exec (.call nnn) s = .next (s.takeFault (some (encode (.call nnn))) ⟨.stackOverflow, none⟩) := by
  show s.commit (.call nnn) (s.advance.push (s.pc + 2) >>= _) = _
  rw [State.push_full (s := s.advance) h]
  rfl

/-- A return from a depth above 0 pops PC; the entry stays in the stack. -/
theorem exec_ret_of_ne_zero {s : State} (h : s.sp.val ≠ 0) :
    exec .ret s = .next { s with
      pc := s.stack[s.sp.val - 1]'(by omega), sp := ⟨s.sp.val - 1, by omega⟩ } := by
  show s.commit .ret s.advance.popPc = _
  rw [State.popPc_ok (s := s.advance) h]
  rfl

theorem exec_ret_empty {s : State} (h : s.sp.val = 0) :
    exec .ret s = .next (s.takeFault (some (encode .ret)) ⟨.stackUnderflow, none⟩) := by
  show s.commit .ret s.advance.popPc = _
  rw [State.popPc_empty (s := s.advance) h]
  rfl

/-- A skip comes on top of the fetch's advance, so it moves PC by 4 in all (R100). -/
theorem State.advance_skipIf (s : State) (p : Prop) [Decidable p] :
    s.advance.skipIf (decide p) = { s with pc := if p then s.pc + 4 else s.pc + 2 } := by
  rw [State.skipIf_frame, State.skipIf_pc, State.advance_pc]
  by_cases h : p
  · simp only [h, decide_true, if_true, BitVec.add_assoc]; rfl
  · simp only [h, decide_false, if_false, Bool.false_eq_true]; rfl

section Skips
variable {s : State} {x y : Reg} (nn : Byte)

theorem exec_sei (hx : s.valuelessV x = false) :
    exec (.sei x nn) s = .next { s with pc := if s.v[x] = nn then s.pc + 4 else s.pc + 2 } := by
  show s.commit (.sei x nn) (s.readV x >>= _) = _
  simp only [State.readV_ok hx, ok_bind, pure_eq_ok, State.commit_ok, State.advance_skipIf]

theorem exec_snei (hx : s.valuelessV x = false) :
    exec (.snei x nn) s = .next { s with pc := if s.v[x] = nn then s.pc + 2 else s.pc + 4 } := by
  show s.commit (.snei x nn) (s.readV x >>= _) = _
  simp only [State.readV_ok hx, ok_bind, pure_eq_ok, State.commit_ok, State.advance_skipIf, ne_eq, ite_not]

theorem exec_se (hx : s.valuelessV x = false) (hy : s.valuelessV y = false) :
    exec (.se x y) s = .next { s with pc := if s.v[x] = s.v[y] then s.pc + 4 else s.pc + 2 } := by
  show s.commit (.se x y) (s.readV x >>= _) = _
  simp only [State.readV_ok hx, State.readV_ok hy, ok_bind, pure_eq_ok, State.commit_ok, State.advance_skipIf]

theorem exec_sne (hx : s.valuelessV x = false) (hy : s.valuelessV y = false) :
    exec (.sne x y) s = .next { s with pc := if s.v[x] = s.v[y] then s.pc + 2 else s.pc + 4 } := by
  show s.commit (.sne x y) (s.readV x >>= _) = _
  simp only [State.readV_ok hx, State.readV_ok hy, ok_bind, pure_eq_ok, State.commit_ok, State.advance_skipIf,
    ne_eq, ite_not]

end Skips

/-! ## The obligations -/

/-- Settles O38: the target is NNN zero-extended, so the 12-bit value is kept. -/
theorem jumpSetsPcToItsTarget : Obligations.JumpSetsPcToItsTarget := by
  refine fun nnn => ⟨encodeNNN_eq_or 0x1#4 nnn, fun s => ⟨_, exec_jp nnn s, ?_, rfl⟩⟩
  exact BitVec.toNat_setWidth_of_le (by decide)

/-- Settles O39: one equation below capacity, one at capacity. -/
theorem callPushesTheReturnAddress : Obligations.CallPushesTheReturnAddress := by
  refine fun nnn => ⟨encodeNNN_eq_or 0x2#4 nnn, fun s => ⟨exec_call_of_lt nnn, fun h => ?_⟩⟩
  exact ⟨_, exec_call_full nnn (congrArg Fin.val h), rfl⟩

/-- Settles O40: one equation for a stack with an entry, one for the empty stack. -/
theorem returnPopsPc : Obligations.ReturnPopsPc :=
  ⟨rfl, fun _ => ⟨exec_ret_of_ne_zero, fun h => ⟨_, exec_ret_empty (congrArg Fin.val h), rfl⟩⟩⟩

/-- Settles O43: the four words by their layouts, the four effects by their equations. -/
theorem skipsMovePcByTheirCondition : Obligations.SkipsMovePcByTheirCondition := by
  intro x y nn
  refine ⟨encodeXNN_eq_or 0x3#4 x nn, encodeXNN_eq_or 0x4#4 x nn, encodeXYN_zero_eq_or 0x5#4 x y,
    encodeXYN_zero_eq_or 0x9#4 x y, fun s hx => ?_⟩
  exact ⟨exec_sei nn hx, exec_snei nn hx, fun hy => ⟨exec_se hx hy, exec_sne hx hy⟩⟩

end Machine
end Sys2Proof
end

section
/-! PROOFS. Register loads and the add without flag (42_alu.md R106 to R108): the register result as the statements
write it, an equation per instruction, and the obligations put together from them. -/

namespace Sys2Proof.Machine

theorem exec_ldi (x : Reg) (nn : Byte) (s : State) : exec (.ldi x nn) s = .next (s.wrote x nn) :=
  congrArg Host.Outcome.next (s.advance_setV x nn)

theorem exec_addi {s : State} {x : Reg} (nn : Byte) (hx : s.valuelessV x = false) :
    exec (.addi x nn) s = .next (s.wrote x (s.v[x] + nn)) := by
  show s.commit (.addi x nn) (s.readV x >>= _) = _
  simp only [State.readV_ok hx, ok_bind, pure_eq_ok, State.commit_ok, State.advance_setV]

theorem exec_ld {s : State} (x : Reg) {y : Reg} (hy : s.valuelessV y = false) :
    exec (.ld x y) s = .next (s.wrote x s.v[y]) := by
  show s.commit (.ld x y) (s.readV y >>= _) = _
  simp only [State.readV_ok hy, ok_bind, pure_eq_ok, State.commit_ok, State.advance_setV]

/-- Byte addition is the sum modulo 256 (R104). -/
theorem byte_add_eq_ofNat_mod (a b : Byte) : a + b = BitVec.ofNat 8 ((a.toNat + b.toNat) % 256) :=
  BitVec.eq_of_toNat_eq (by simp)

/-- Settles O28: the word by its layout, the effect by its equation, the sum read on natural numbers. -/
theorem addImmediateWrapsWithoutFlag : Obligations.AddImmediateWrapsWithoutFlag := by
  refine fun x nn => ⟨encodeXNN_eq_or 0x7#4 x nn, fun s hx => ?_⟩
  rw [exec_addi nn hx, byte_add_eq_ofNat_mod]

/-- Settles O29: the two words by their layouts, the two effects by their equations. -/
theorem registerLoadsWriteTheirOperand : Obligations.RegisterLoadsWriteTheirOperand :=
  fun x y nn => ⟨encodeXNN_eq_or 0x6#4 x nn, encodeXYN_zero_eq_or 0x8#4 x y,
    fun s => ⟨exec_ldi x nn s, exec_ld x⟩⟩

end Sys2Proof.Machine
end

section
/-! PROOFS. Loads of the index register (43_index_memory.md R119, R121): the word of an FXNN instruction with X as the
last field, the glyph's address on natural numbers, an equation per instruction, and the obligation put together from
them. -/

namespace Sys2Proof

/-- The fixed fields of the second layout first, then X, as the FXNN encodings are written. -/
theorem encodeXNN_eq_fixed_or_reg (op : BitVec 4) (x : Reg) (nn : Byte) :
    encodeXNN op x nn = op.setWidth 16 <<< 12 ||| nn.setWidth 16 ||| BitVec.ofNat 16 x.val <<< 8 := by
  rw [encodeXNN_eq_or]
  ac_rfl

namespace Machine

/-- The result of an index load: the advance of the fetch, then I written. -/
theorem State.advance_setI (s : State) (w : Word) :
    s.advance.setI w = { s with pc := s.pc + 2, i := w, unset := { s.unset with i := false } } := rfl

theorem exec_ldidx (nnn : BitVec 12) (s : State) :
    exec (.ldidx nnn) s = .next (s.advance.setI (addressOf nnn)) := rfl

theorem exec_ldf {s : State} {x : Reg} (hx : s.valuelessV x = false) :
    exec (.ldf x) s = .next (s.advance.setI (glyphAddress s.v[x])) := by
  show s.commit (.ldf x) (s.readV x >>= _) = _
  simp only [State.readV_ok hx, ok_bind, pure_eq_ok, State.commit_ok]

/-- Zero extension keeps the 12-bit value. -/
@[simp] theorem addressOf_toNat (nnn : BitVec 12) : (addressOf nnn).toNat = nnn.toNat :=
  BitVec.toNat_setWidth_of_le (by decide)

/-- V[X] is at most 255, so the address is at most 0x54B and 16 bits hold it. -/
@[simp] theorem glyphAddress_toNat (v : Byte) : (glyphAddress v).toNat = 0x050 + v.toNat * 5 := by
  have hv : v.toNat < 256 := v.isLt
  exact Nat.mod_eq_of_lt (by omega)

/-- Settles O44: the two words by their layouts, the two effects by their equations, I by its address. -/
theorem indexLoadsGiveTheirAddress : Obligations.IndexLoadsGiveTheirAddress := by
  refine ⟨encodeNNN_eq_or 0xA#4, fun x => encodeXNN_eq_fixed_or_reg 0xF#4 x 0x29#8, fun nnn s => ?_, fun x s hx => ?_⟩
  · exact ⟨_, exec_ldidx nnn s, addressOf_toNat nnn, s.advance_setI _⟩
  · exact ⟨_, exec_ldf hx, glyphAddress_toNat s.v[x], s.advance_setI _⟩

end Machine
end Sys2Proof
end

section
/-! PROOFS. Clear screen (44_display.md R125): the cells of the blank framebuffer, the equation of 00E0, and the
obligation put together from them. -/

namespace Sys2Proof.Machine

@[simp] theorem blankFramebuffer_cell (x : Fin 64) (y : Fin 32) : (blankFramebuffer[y])[x] = false := by
  simp only [blankFramebuffer, Fin.getElem_fin, Vector.getElem_replicate]

theorem exec_cls (s : State) : exec .cls s = .next { s with pc := s.pc + 2, fb := blankFramebuffer } := rfl

/-- Settles O50: the word is the row's constant, the effect is the equation of 00E0, every cell is the blank one. -/
theorem clearScreenClearsEveryCell : Obligations.ClearScreenClearsEveryCell :=
  ⟨rfl, fun s => ⟨_, exec_cls s, blankFramebuffer_cell, rfl⟩⟩

end Sys2Proof.Machine
end

section
/-! PROOFS. The decoder and the encoder (30_encoding.md sections 1 and 2): each layout is its three fields, so a word
that decodes is the encoding of its instruction, and a word that matches a row encodes an instruction of that row. -/

namespace Sys2Proof

/-! ## A word is its fields -/

/-- A 16-bit word, in the second layout. -/
theorem encodeXNN_fields (w : Word) : encodeXNN (opField w) (xField w) (nnField w) = w := by
  apply BitVec.eq_of_getLsbD_eq
  intro k hk
  rw [getLsbD_encodeXNN]
  simp only [xField, fieldOfReg_regOfField, opField, nnField, BitVec.getLsbD_extractLsb']
  split
  · simp [*]
  · split
    · have h4 : k - 8 < 4 := by omega
      simp [h4, show 8 + (k - 8) = k by omega]
    · have h4 : k - 12 < 4 := by omega
      simp [h4, show 12 + (k - 12) = k by omega]

/-- A 16-bit word, in the first layout. -/
theorem encodeXYN_fields (w : Word) : encodeXYN (opField w) (xField w) (yField w) (nField w) = w := by
  apply BitVec.eq_of_getLsbD_eq
  intro k hk
  rw [getLsbD_encodeXYN]
  simp only [xField, yField, fieldOfReg_regOfField, opField, nField, BitVec.getLsbD_extractLsb']
  split
  · simp [*]
  · split
    · have h4 : k - 4 < 4 := by omega
      simp [h4, show 4 + (k - 4) = k by omega]
    · split
      · have h4 : k - 8 < 4 := by omega
        simp [h4, show 8 + (k - 8) = k by omega]
      · have h4 : k - 12 < 4 := by omega
        simp [h4, show 12 + (k - 12) = k by omega]

/-- A 16-bit word, in the third layout. -/
theorem encodeNNN_fields (w : Word) : encodeNNN (opField w) (nnnField w) = w := by
  apply BitVec.eq_of_getLsbD_eq
  intro k hk
  rw [getLsbD_encodeNNN]
  simp only [opField, nnnField, BitVec.getLsbD_extractLsb']
  split
  · simp [*]
  · have h4 : k - 12 < 4 := by omega
    simp [h4, show 12 + (k - 12) = k by omega]

/-! ## Decode of encode -/

theorem decodeWord_encode {i : Instr} (h : i.wellFormed = true) : decodeWord (encode i) = .ok i := by
  cases i with
  | cls | ret => rfl
  | jp nnn | call nnn | ldidx nnn => simp [encode, decodeWord]
  | sei x nn | snei x nn | ldi x nn | addi x nn | rnd x nn => simp [encode, decodeWord]
  | se x y | sne x y => simp [encode, decodeWord]
  | ld x y | or x y | and x y | xor x y | add x y | sub x y | shl x y | subn x y | shr x y =>
    simp [encode, decodeWord, decodeGroup8]
  | drw x y n =>
    have hn : n < 16 := of_decide_eq_true h
    simp [encode, decodeWord, Nat.mod_eq_of_lt hn]
  | skp x | sknp x => simp [encode, decodeWord, decodeGroupE]
  | ldvdt x | ldk x | lddtv x | ldstv x | addidx x | ldf x | ldb x | stm x | ldm x =>
    simp [encode, decodeWord, decodeGroupF]

/-! ## Encode of decode -/

section Fields
variable {w : Word} {op n : BitVec 4} {nn : Byte}

theorem encodeNNN_of_op (h : opField w = op) : encodeNNN op (nnnField w) = w := h ▸ encodeNNN_fields w

theorem encodeXNN_of_op (h : opField w = op) : encodeXNN op (xField w) (nnField w) = w := h ▸ encodeXNN_fields w

theorem encodeXNN_of_op_nn (h : opField w = op) (h' : nnField w = nn) : encodeXNN op (xField w) nn = w :=
  h' ▸ encodeXNN_of_op h

theorem encodeXYN_of_op (h : opField w = op) : encodeXYN op (xField w) (yField w) (nField w) = w :=
  h ▸ encodeXYN_fields w

theorem encodeXYN_of_op_n (h : opField w = op) (h' : nField w = n) : encodeXYN op (xField w) (yField w) n = w :=
  h' ▸ encodeXYN_of_op h

end Fields

theorem encode_drw_fields {w : Word} (h : opField w = 0xD#4) :
    encode (.drw (xField w) (yField w) (nField w).toNat) = w := by
  simp only [encode, BitVec.ofNat_toNat, BitVec.setWidth_eq, encodeXYN_of_op h]

/-- A word in group 0 decodes to a row that is all of it. -/
theorem encode_of_decodeGroup0 {w : Word} {i : Instr} (h : decodeGroup0 w = .ok i) :
    encode i = w ∧ i.wellFormed = true := by
  unfold decodeGroup0 at h
  split at h
  · cases h; exact ⟨Eq.symm ‹_›, rfl⟩
  · split at h
    · cases h; exact ⟨Eq.symm ‹_›, rfl⟩
    · cases h

theorem encode_of_decodeGroup8 {w : Word} {i : Instr} (hop : opField w = 0x8#4) (h : decodeGroup8 w = .ok i) :
    encode i = w ∧ i.wellFormed = true := by
  unfold decodeGroup8 at h
  split at h <;> cases h <;> exact ⟨encodeXYN_of_op_n hop ‹_›, rfl⟩

theorem encode_of_decodeGroupE {w : Word} {i : Instr} (hop : opField w = 0xE#4) (h : decodeGroupE w = .ok i) :
    encode i = w ∧ i.wellFormed = true := by
  unfold decodeGroupE at h
  split at h <;> cases h <;> exact ⟨encodeXNN_of_op_nn hop ‹_›, rfl⟩

theorem encode_of_decodeGroupF {w : Word} {i : Instr} (hop : opField w = 0xF#4) (h : decodeGroupF w = .ok i) :
    encode i = w ∧ i.wellFormed = true := by
  unfold decodeGroupF at h
  split at h <;> cases h <;> exact ⟨encodeXNN_of_op_nn hop ‹_›, rfl⟩

theorem encode_of_decodeWord {w : Word} {i : Instr} (h : decodeWord w = .ok i) :
    encode i = w ∧ i.wellFormed = true := by
  unfold decodeWord at h
  split at h
  case h_1 => exact encode_of_decodeGroup0 h
  case h_9 hop => exact encode_of_decodeGroup8 hop h
  case h_14 hop => exact encode_of_decodeGroupE hop h
  case h_15 hop => exact encode_of_decodeGroupF hop h
  case h_6 hop | h_10 hop =>
    split at h
    · cases h; exact ⟨encodeXYN_of_op_n hop ‹_›, rfl⟩
    · cases h
  case h_13 hop => cases h; exact ⟨encode_drw_fields hop, decide_eq_true (nField w).isLt⟩
  case h_2 hop | h_3 hop | h_11 hop => cases h; exact ⟨encodeNNN_of_op hop, rfl⟩
  case h_4 hop | h_5 hop | h_7 hop | h_8 hop | h_12 hop => cases h; exact ⟨encodeXNN_of_op hop, rfl⟩
  case h_16 => cases h

/-- Every error of the decoder is "unimplemented", with the word. -/
theorem decodeWord_eq_error {w : Word} {e : DecodeError} (h : decodeWord w = .error e) : e = .unimplemented w := by
  unfold decodeWord at h
  split at h
  case h_1 =>
    unfold decodeGroup0 at h
    split at h
    · cases h
    · split at h <;> cases h
      rfl
  case h_9 => unfold decodeGroup8 at h; split at h <;> cases h; rfl
  case h_14 => unfold decodeGroupE at h; split at h <;> cases h; rfl
  case h_15 => unfold decodeGroupF at h; split at h <;> cases h; rfl
  case h_6 | h_10 => split at h <;> cases h; rfl
  case h_16 => cases h; rfl
  all_goals cases h

/-! ## Rows -/

/-- An instruction's word matches its own row. -/
theorem matchesRow_encode (i : Instr) : matchesRow (encode i) i = true := by
  apply decide_eq_true
  cases i with
  | cls | ret => rfl
  | jp nnn | call nnn | ldidx nnn => exact encodeNNN_and_F000 _ _
  | sei x nn | snei x nn | ldi x nn | addi x nn | rnd x nn => exact encodeXNN_and_F000 _ _ _
  | drw x y n => exact encodeXYN_and_F000 _ _ _ _
  | se x y | sne x y | ld x y | or x y | and x y | xor x y | add x y | sub x y | shl x y | subn x y | shr x y =>
    exact encodeXYN_and_F00F _ _ _ _
  | skp x | sknp x | ldvdt x | ldk x | lddtv x | ldstv x | addidx x | ldf x | ldb x | stm x | ldm x =>
    exact encodeXNN_and_F0FF _ _ _

/-- Two instructions of one row of the table: one constructor, one mask, one pattern. -/
def Instr.SameRow (i j : Instr) : Prop := i.ctorIdx = j.ctorIdx ∧ i.mask = j.mask ∧ i.pattern = j.pattern

section Match
variable {w m p : Word}

/-- A mask that keeps the top nibble fixes it in every word that matches. -/
theorem opField_of_mask (hm : opField m = 0xF#4) (h : w &&& m = p) : opField w = opField p := by
  calc opField w = opField w &&& 0xF#4 := (BitVec.and_allOnes (x := opField w)).symm
    _ = opField (w &&& m) := by rw [← hm]; exact BitVec.extractLsb'_and.symm
    _ = opField p := by rw [h]

theorem nField_of_mask (hm : nField m = 0xF#4) (h : w &&& m = p) : nField w = nField p := by
  calc nField w = nField w &&& 0xF#4 := (BitVec.and_allOnes (x := nField w)).symm
    _ = nField (w &&& m) := by rw [← hm]; exact BitVec.extractLsb'_and.symm
    _ = nField p := by rw [h]

theorem nnField_of_mask (hm : nnField m = 0xFF#8) (h : w &&& m = p) : nnField w = nnField p := by
  calc nnField w = nnField w &&& 0xFF#8 := (BitVec.and_allOnes (x := nnField w)).symm
    _ = nnField (w &&& m) := by rw [← hm]; exact BitVec.extractLsb'_and.symm
    _ = nnField p := by rw [h]

end Match

/-- The instruction of the row of `i` with the fields of `w`. -/
def Instr.refill (w : Word) : Instr → Instr
  | .cls => .cls
  | .ret => .ret
  | .jp _ => .jp (nnnField w)
  | .call _ => .call (nnnField w)
  | .sei _ _ => .sei (xField w) (nnField w)
  | .snei _ _ => .snei (xField w) (nnField w)
  | .se _ _ => .se (xField w) (yField w)
  | .ldi _ _ => .ldi (xField w) (nnField w)
  | .addi _ _ => .addi (xField w) (nnField w)
  | .ld _ _ => .ld (xField w) (yField w)
  | .or _ _ => .or (xField w) (yField w)
  | .and _ _ => .and (xField w) (yField w)
  | .xor _ _ => .xor (xField w) (yField w)
  | .add _ _ => .add (xField w) (yField w)
  | .sub _ _ => .sub (xField w) (yField w)
  | .shl _ _ => .shl (xField w) (yField w)
  | .subn _ _ => .subn (xField w) (yField w)
  | .shr _ _ => .shr (xField w) (yField w)
  | .sne _ _ => .sne (xField w) (yField w)
  | .ldidx _ => .ldidx (nnnField w)
  | .rnd _ _ => .rnd (xField w) (nnField w)
  | .drw _ _ _ => .drw (xField w) (yField w) (nField w).toNat
  | .skp _ => .skp (xField w)
  | .sknp _ => .sknp (xField w)
  | .ldvdt _ => .ldvdt (xField w)
  | .ldk _ => .ldk (xField w)
  | .lddtv _ => .lddtv (xField w)
  | .ldstv _ => .ldstv (xField w)
  | .addidx _ => .addidx (xField w)
  | .ldf _ => .ldf (xField w)
  | .ldb _ => .ldb (xField w)
  | .stm _ => .stm (xField w)
  | .ldm _ => .ldm (xField w)

theorem Instr.refill_wellFormed (w : Word) (i : Instr) : (i.refill w).wellFormed = true := by
  cases i with
  | drw x y n => exact decide_eq_true (nField w).isLt
  | _ => rfl

theorem Instr.refill_sameRow (w : Word) (i : Instr) : i.SameRow (i.refill w) := by
  cases i <;> exact ⟨rfl, rfl, rfl⟩

/-- A word that matches the row of `i` is the encoding of the row's instruction with the word's fields. -/
theorem encode_refill {w : Word} {i : Instr} (h : matchesRow w i = true) : encode (i.refill w) = w := by
  have hw : w &&& i.mask = i.pattern := of_decide_eq_true h
  cases i with simp only [Instr.mask, Instr.pattern] at hw
  | cls | ret => exact (BitVec.and_allOnes (x := w) ▸ hw).symm
  | jp nnn | call nnn | ldidx nnn => exact encodeNNN_of_op (opField_of_mask rfl hw)
  | sei x nn | snei x nn | ldi x nn | addi x nn | rnd x nn => exact encodeXNN_of_op (opField_of_mask rfl hw)
  | drw x y n => exact encode_drw_fields (opField_of_mask rfl hw)
  | se x y | sne x y | ld x y | or x y | and x y | xor x y | add x y | sub x y | shl x y | subn x y | shr x y =>
    exact encodeXYN_of_op_n (opField_of_mask rfl hw) (nField_of_mask rfl hw)
  | skp x | sknp x | ldvdt x | ldk x | lddtv x | ldstv x | addidx x | ldf x | ldb x | stm x | ldm x =>
    exact encodeXNN_of_op_nn (opField_of_mask rfl hw) (nnField_of_mask rfl hw)

/-- A word that matches a row decodes to that row's instruction. -/
theorem decodeWord_of_matchesRow {w : Word} {i : Instr} (h : matchesRow w i = true) :
    decodeWord w = .ok (i.refill w) := by
  calc decodeWord w = decodeWord (encode (i.refill w)) := by rw [encode_refill h]
    _ = .ok (i.refill w) := decodeWord_encode (i.refill_wellFormed w)

theorem matchesRow_of_decodeWord {w : Word} {i : Instr} (h : decodeWord w = .ok i) : matchesRow w i = true := by
  obtain ⟨rfl, -⟩ := encode_of_decodeWord h
  exact matchesRow_encode i

/-! ## The obligations -/

/-- Settles O1: a case per layout, its fields read back. -/
theorem decodeOfEncodeIsIdentity : Obligations.DecodeOfEncodeIsIdentity := fun _ => decodeWord_encode

/-- Settles O2: a branch of the decoder per row, the word put together from its fields. -/
theorem encodeOfDecodeIsTheWord : Obligations.EncodeOfDecodeIsTheWord := fun _ _ => encode_of_decodeWord

/-- Settles O3: what decodes is an encoding, so it matches; what matches is an encoding, so it decodes; an error is
"unimplemented" always. -/
theorem decoderSelectsByMaskAndMatch : Obligations.DecoderSelectsByMaskAndMatch := by
  refine ⟨fun w i => matchesRow_of_decodeWord, fun w i h => ⟨_, decodeWord_of_matchesRow h⟩, fun w hno => ?_⟩
  cases h : decodeWord w with
  | ok i => exact absurd (matchesRow_of_decodeWord h) (Bool.eq_false_iff.1 (hno i))
  | error e => rw [decodeWord_eq_error h]

/-- Settles O4: the word decodes to the row of each, and the decoder gives one answer. -/
theorem patternsOfTwoRowsNeverMatchOneWord : Obligations.PatternsOfTwoRowsNeverMatchOneWord := by
  intro w i j hi hj
  have hij : i.refill w = j.refill w :=
    Except.ok.inj ((decodeWord_of_matchesRow hi).symm.trans (decodeWord_of_matchesRow hj))
  obtain ⟨hic, him, hip⟩ := i.refill_sameRow w
  obtain ⟨hjc, hjm, hjp⟩ := j.refill_sameRow w
  rw [hic, him, hip, hjc, hjm, hjp, hij]
  exact ⟨rfl, rfl, rfl⟩

/-- Settles O5: each word is computed. -/
theorem sampleWordsDecodeAsWritten : Obligations.SampleWordsDecodeAsWritten :=
  ⟨rfl, rfl, rfl, rfl, rfl, rfl, rfl, rfl, rfl, rfl, rfl, rfl⟩

end Sys2Proof
end

section
/-! PROOFS. What an instruction can do, said once for all 33: it ends in its effect, which changes the fields of its row
and no other (10_state.md), or it raises a cause the parameters allow (60_exceptions.md R139) and commits nothing. -/

namespace Sys2Proof

/-! ## What an instruction may raise and what it may change -/

section Defs
open Machine

/-- What the instruction `i` may raise in `s`: a cause the parameters allow, and AliasRefused only where `i` is a flag
instruction with VF as operand. -/
structure Instr.Raises (i : Instr) (s : State) (tr : Trap) : Prop where
  admitted : tr.cause.admittedBy s.cfg = true
  aliased : tr.cause = .aliasRefused → ∃ x y, (x = 15 ∨ y = 15) ∧
    i ∈ [Instr.add x y, Instr.sub x y, Instr.shl x y, Instr.subn x y, Instr.shr x y]

/-- `s` with the fields that `i` may write taken from `t` (10_state.md R23 to R31, 20_memory.md R41). PC is the
row's own, but for the entry that a return pops. -/
def Instr.overwrite (s t : State) : Instr → State
  | .cls => { s with pc := s.pc + 2, fb := t.fb }
  | .ret => { s with pc := t.pc, sp := t.sp }
  | .call nnn => { s with pc := addressOf nnn, sp := t.sp, stack := t.stack }
  | .jp nnn => { s with pc := addressOf nnn }
  | .sei _ _ | .snei _ _ | .se _ _ | .sne _ _ | .skp _ | .sknp _ =>
    { s with pc := if t.pc = s.pc + 4 then s.pc + 4 else s.pc + 2 }
  | .ldi _ _ | .addi _ _ | .ld _ _ | .or _ _ | .and _ _ | .xor _ _ | .add _ _ | .sub _ _ | .shl _ _ | .subn _ _
  | .shr _ _ | .ldvdt _ | .ldm _ => { s with pc := s.pc + 2, v := t.v, unset := { s.unset with v := t.unset.v } }
  | .ldk _ =>
    { s with pc := if t.pc = s.pc then s.pc else s.pc + 2, v := t.v, unset := { s.unset with v := t.unset.v } }
  | .rnd _ _ =>
    { s with pc := s.pc + 2, v := t.v, unset := { s.unset with v := t.unset.v }, rand := t.rand, draws := t.draws }
  | .drw _ _ _ => { s with pc := s.pc + 2, v := t.v, unset := { s.unset with v := t.unset.v }, fb := t.fb }
  | .ldidx _ | .ldf _ => { s with pc := s.pc + 2, i := t.i, unset := { s.unset with i := t.unset.i } }
  | .addidx _ =>
    { s with pc := s.pc + 2, i := t.i, v := t.v, unset := { s.unset with i := t.unset.i, v := t.unset.v } }
  | .ldb _ | .stm _ => { s with pc := s.pc + 2, mem := t.mem }
  | .lddtv _ => { s with pc := s.pc + 2, dt := t.dt, unset := { s.unset with dt := t.unset.dt } }
  | .ldstv _ => { s with pc := s.pc + 2, st := t.st, unset := { s.unset with st := t.unset.st } }

/-- `t` is an effect of `i` on `s`: only the fields of its row differ, and of V only the registers of its row of the
writers' table. -/
structure Instr.Effect (i : Instr) (s t : State) : Prop where
  frame : t = Instr.overwrite s t i
  regs : ∀ r : Reg, i.mayWriteV s.cfg r = false → t.v[r] = s.v[r]

end Defs

namespace Machine

/-! ## What is raised -/

section Raises
variable {i : Instr} {s : State} {tr : Trap}

theorem raises_of_ne_aliasRefused (h : tr.cause.admittedBy s.cfg = true) (hne : tr.cause ≠ .aliasRefused) :
    Instr.Raises i s tr := ⟨h, fun e => absurd e hne⟩

theorem raises_uninitialisedRead {a : Option Word}
    (h : tr = ⟨.uninitialisedRead, a⟩ ∧ s.cfg.initPolicy = .unspecified) : Instr.Raises i s tr :=
  raises_of_ne_aliasRefused (admitted_uninitialisedRead h) (by rw [h.1]; nofun)

theorem raises_readV {x : Reg} (h : s.readV x = .error tr) : Instr.Raises i s tr :=
  raises_uninitialisedRead (State.readV_eq_error h)

theorem raises_readI (h : s.readI = .error tr) : Instr.Raises i s tr :=
  raises_uninitialisedRead (State.readI_eq_error h)

theorem raises_readDt (h : s.readDt = .error tr) : Instr.Raises i s tr :=
  raises_uninitialisedRead (State.readDt_eq_error h)

theorem raises_readVs {xs : List Reg} (h : s.readVs xs = .error tr) : Instr.Raises i s tr :=
  raises_uninitialisedRead (State.readVs_eq_error h)

theorem raises_loadByte {a : Nat} (h : s.loadByte a = .error tr) : Instr.Raises i s tr := by
  rcases State.loadByte_eq_error h with ⟨-, rfl⟩ | ⟨-, hb, rfl⟩
  · exact raises_of_ne_aliasRefused rfl nofun
  · exact raises_uninitialisedRead ⟨rfl, State.unspecified_of_byteAt_none hb⟩

theorem raises_loadBytes {a n : Nat} (h : s.loadBytes a n = .error tr) : Instr.Raises i s tr := by
  induction n generalizing a with
  | zero => cases h
  | succ n ih =>
    rcases bind_eq_error.1 h with h | ⟨b, -, h⟩
    · exact raises_loadByte h
    · rcases bind_eq_error.1 h with h | ⟨bs, -, h⟩
      · exact ih h
      · cases h

theorem raises_transferBase {d : Transfer} {n : Nat} (h : s.transferBase d n = .error tr) : Instr.Raises i s tr := by
  refine raises_of_ne_aliasRefused (State.transferBase_admitted h) ?_
  rcases bind_eq_error.1 h with h | ⟨w, -, h⟩
  · rw [(State.readI_eq_error h).1]; nofun
  · rcases bind_eq_error.1 h with h | ⟨u, -, h⟩
    · rcases checkTransfer_eq_error h with ⟨-, rfl⟩ | ⟨-, -, -, rfl⟩ <;> nofun
    · cases h

theorem raises_spriteRows {n y0 : Nat} (h : s.spriteRows n y0 = .error tr) : Instr.Raises i s tr := by
  unfold State.spriteRows at h
  split at h
  · cases h
  · rcases bind_eq_error.1 h with h | ⟨a, -, h⟩
    · exact raises_transferBase h
    · exact raises_loadBytes h

theorem raises_keyOf {x : Reg} (h : s.keyOf x = .error tr) : Instr.Raises i s tr := by
  refine raises_of_ne_aliasRefused (State.keyOf_admitted h) ?_
  rcases bind_eq_error.1 h with h | ⟨v, -, h⟩
  · rw [(State.readV_eq_error h).1]; nofun
  · obtain ⟨-, -, rfl⟩ := keyPressed_eq_error h
    nofun

theorem raises_push {w : Word} (h : s.advance.push w = .error tr) : Instr.Raises i s tr := by
  obtain ⟨rfl, -⟩ := State.push_eq_error h
  exact raises_of_ne_aliasRefused rfl nofun

theorem raises_popPc (h : s.advance.popPc = .error tr) : Instr.Raises i s tr := by
  obtain ⟨rfl, -⟩ := State.popPc_eq_error h
  exact raises_of_ne_aliasRefused rfl nofun

theorem raises_checkAlias {x y : Reg}
    (hi : i ∈ [Instr.add x y, Instr.sub x y, Instr.shl x y, Instr.subn x y, Instr.shr x y])
    (h : s.checkAlias x y = .error tr) : Instr.Raises i s tr :=
  ⟨State.checkAlias_admitted h, fun _ => ⟨x, y, (State.checkAlias_eq_error h).2.2, hi⟩⟩

end Raises

/-! ## How a body ends -/

/-- How a body ends: with `P` of its state, or with a trap of which `Q` holds. -/
def Ends (Q : Trap → Prop) (P : State → Prop) : Except Trap State → Prop
  | .ok t    => P t
  | .error e => Q e

theorem Ends.bind {α : Type} {Q : Trap → Prop} {P : State → Prop} {x : Except Trap α} {f : α → Except Trap State}
    (hx : ∀ tr, x = .error tr → Q tr) (hf : ∀ a, x = .ok a → Ends Q P (f a)) : Ends Q P (x >>= f) := by
  cases x with
  | ok a => exact hf a rfl
  | error tr => exact hx tr rfl

theorem Ends.of_imp {Q : Trap → Prop} {P : State → Prop} {x : Except Trap State}
    (hx : ∀ tr, x = .error tr → Q tr) (hp : ∀ t, x = .ok t → P t) : Ends Q P x := by
  cases x with
  | ok t => exact hp t rfl
  | error tr => exact hx tr rfl

theorem Ends.byAliasMode {Q : Trap → Prop} {P : State → Prop} {s a b : State} (ha : P a) (hb : P b) :
    Ends Q P (.ok (s.byAliasMode a b)) := by
  rcases State.byAliasMode_cases s a b with h | h <;> rw [h]
  · exact ha
  · exact hb

theorem commit_of_ends {s t : State} {i : Instr} {e : Except Trap State} (h : s.commit i e = .next t)
    (he : Ends (i.Raises s) (i.Effect s) e) :
    i.Effect s t ∨ ∃ tr, i.Raises s tr ∧ t = s.takeFault (some (encode i)) tr := by
  rcases State.commit_cases h with rfl | ⟨tr, rfl, rfl⟩
  · exact .inl he
  · exact .inr ⟨tr, he, rfl⟩

theorem commit_bind_ok {α : Type} {s : State} {i : Instr} {x : Except Trap α} {f : α → Except Trap State} {a : α}
    {o : Host.Outcome State Fault Refusal} (hx : x = .ok a) (hf : s.commit i (f a) = o) : s.commit i (x >>= f) = o := by
  rw [hx]; exact hf

theorem commit_bind_error {α : Type} {s : State} {i : Instr} {x : Except Trap α} {f : α → Except Trap State}
    {tr : Trap} (hx : x = .error tr) : s.commit i (x >>= f) = .next (s.takeFault (some (encode i)) tr) := by
  rw [hx]; rfl

/-! ## Registers kept by a write -/

theorem State.setV_v_of_ne {s : State} {x r : Reg} {b : Byte} (h : r ≠ x) : (s.setV x b).v[r] = s.v[r] :=
  Vector.getElem_set_ne x.isLt r.isLt (Fin.val_ne_of_ne h.symm)

theorem State.setFlag_v_of_ne {s : State} {r : Reg} {c : Bool} (h : r ≠ 15) : (s.setFlag c).v[r] = s.v[r] :=
  State.setV_v_of_ne h

theorem State.setFlag_setV_v_of_ne {s : State} {x r : Reg} {c : Bool} {b : Byte} (h : ¬ (r = x ∨ r = 15)) :
    ((s.setFlag c).setV x b).v[r] = s.v[r] :=
  (State.setV_v_of_ne (mt .inl h)).trans (State.setFlag_v_of_ne (mt .inr h))

theorem State.setV_setFlag_v_of_ne {s : State} {x r : Reg} {c : Bool} {b : Byte} (h : ¬ (r = x ∨ r = 15)) :
    ((s.setV x b).setFlag c).v[r] = s.v[r] :=
  (State.setFlag_v_of_ne (mt .inr h)).trans (State.setV_v_of_ne (mt .inl h))

theorem State.setIndexFlag_v_of_ne {s : State} {r : Reg} {c : Bool} (h : ¬ (r = 15 ∧ s.cfg.indexFlagMode = .set)) :
    (s.setIndexFlag c).v[r] = s.v[r] := by
  cases hm : s.cfg.indexFlagMode with
  | set => rw [State.setIndexFlag_set hm]; exact State.setFlag_v_of_ne fun hr => h ⟨hr, hm⟩
  | unchanged => rw [State.setIndexFlag_unchanged hm]

/-! ## The inversion of `exec` -/

section Inversion
variable {s : State} {x : Reg}

theorem effect_wrote {i : Instr} (b : Byte) (hw : ∀ t, Instr.overwrite s t i =
      { s with pc := s.pc + 2, v := t.v, unset := { s.unset with v := t.unset.v } })
    (hr : ∀ r, i.mayWriteV s.cfg r = decide (r = x)) : Instr.Effect i s (s.advance.setV x b) :=
  ⟨(hw (s.advance.setV x b)).symm, fun r h => State.setV_v_of_ne (of_decide_eq_false (hr r ▸ h))⟩

theorem effect_setFlag_setV {i : Instr} (c : Bool) (b : Byte) (hw : ∀ t, Instr.overwrite s t i =
      { s with pc := s.pc + 2, v := t.v, unset := { s.unset with v := t.unset.v } })
    (hr : ∀ r, i.mayWriteV s.cfg r = decide (r = x ∨ r = 15)) :
    Instr.Effect i s ((s.advance.setFlag c).setV x b) :=
  ⟨(hw ((s.advance.setFlag c).setV x b)).symm, fun r h => State.setFlag_setV_v_of_ne (of_decide_eq_false (hr r ▸ h))⟩

theorem effect_setV_setFlag {i : Instr} (c : Bool) (b : Byte) (hw : ∀ t, Instr.overwrite s t i =
      { s with pc := s.pc + 2, v := t.v, unset := { s.unset with v := t.unset.v } })
    (hr : ∀ r, i.mayWriteV s.cfg r = decide (r = x ∨ r = 15)) :
    Instr.Effect i s ((s.advance.setV x b).setFlag c) :=
  ⟨(hw ((s.advance.setV x b).setFlag c)).symm, fun r h => State.setV_setFlag_v_of_ne (of_decide_eq_false (hr r ▸ h))⟩

theorem effect_skipIf {i : Instr} (c : Bool)
    (hw : ∀ t, Instr.overwrite s t i = { s with pc := if t.pc = s.pc + 4 then s.pc + 4 else s.pc + 2 }) :
    Instr.Effect i s (s.advance.skipIf c) := by
  have hpc : (s.advance.skipIf c).pc = if (s.advance.skipIf c).pc = s.pc + 4 then s.pc + 4 else s.pc + 2 := by
    cases c
    · rw [ite_eq_right_iff.2 fun h => h.symm]; rfl
    · have h4 : (s.advance.skipIf true).pc = s.pc + 4 := BitVec.add_assoc s.pc 2 2
      rw [if_pos h4, h4]
  refine ⟨?_, fun r _ => by rw [State.skipIf_v, State.advance_v]⟩
  rw [hw, ← hpc]
  exact State.skipIf_frame s.advance c

theorem exec_ldk_none (h : lowestPressed s.keys = none) : exec (.ldk x) s = .next s.advance.rewind := by
  simp only [exec, execLdk, h]

theorem exec_ldk_some {k : Reg} (h : lowestPressed s.keys = some k) :
    exec (.ldk x) s = .next (s.advance.setV x (BitVec.ofNat 8 k.val)) := by
  simp only [exec, execLdk, h]

/-- A wait with no key steps back to the word (45_keypad_timers.md R134). -/
theorem effect_rewind : Instr.Effect (.ldk x) s s.advance.rewind := by
  have hpc : s.advance.rewind.pc = s.pc := BitVec.add_sub_cancel s.pc 2
  refine ⟨?_, fun _ _ => rfl⟩
  rw [Instr.overwrite, if_pos hpc]
  exact congrArg (State.setPc s) hpc

theorem effect_key (b : Byte) : Instr.Effect (.ldk x) s (s.advance.setV x b) := by
  refine ⟨?_, fun r hr => State.setV_v_of_ne (of_decide_eq_false hr)⟩
  rw [Instr.overwrite, ite_eq_right_iff.2 fun h => h.symm]
  rfl

end Inversion

/-- Every way an instruction can answer: its effect, or a fault entry with a cause it may raise. -/
theorem exec_cases {i : Instr} {s t : State} (h : exec i s = .next t) :
    i.Effect s t ∨ ∃ tr, i.Raises s tr ∧ t = s.takeFault (some (encode i)) tr := by
  cases i with
  | cls | jp nnn | ldidx nnn => cases h; exact .inl ⟨rfl, fun _ _ => rfl⟩
  | ldi x nn => cases h; exact .inl (effect_wrote _ (fun _ => rfl) fun _ => rfl)
  | rnd x nn => cases h; exact .inl ⟨rfl, fun r hr => State.setV_v_of_ne (of_decide_eq_false hr)⟩
  | ldk x =>
    cases hk : lowestPressed s.keys with
    | none => rw [exec_ldk_none hk] at h; cases h; exact .inl effect_rewind
    | some k => rw [exec_ldk_some hk] at h; cases h; exact .inl (effect_key _)
  | ret =>
    refine commit_of_ends h (.of_imp (fun _ => raises_popPc) fun u hu => ?_)
    exact ⟨State.popPc_frame hu, fun r _ => by rw [State.popPc_frame hu, State.advance_v]⟩
  | call nnn =>
    refine commit_of_ends h (.bind (fun _ => raises_push) fun u hu => ?_)
    exact ⟨congrArg (State.setPc · (addressOf nnn)) (State.push_frame hu), fun r _ => by
      rw [State.setPc_v, State.push_frame hu, State.advance_v]⟩
  | sei x nn | snei x nn =>
    exact commit_of_ends h (.bind (fun _ => raises_readV) fun a _ => effect_skipIf _ fun _ => rfl)
  | se x y | sne x y =>
    exact commit_of_ends h (.bind (fun _ => raises_readV) fun a _ => .bind (fun _ => raises_readV) fun b _ =>
      effect_skipIf _ fun _ => rfl)
  | skp x | sknp x =>
    exact commit_of_ends h (.bind (fun _ => raises_keyOf) fun p _ => effect_skipIf _ fun _ => rfl)
  | addi x nn | ld x y =>
    exact commit_of_ends h (.bind (fun _ => raises_readV) fun a _ => effect_wrote _ (fun _ => rfl) fun _ => rfl)
  | ldvdt x =>
    exact commit_of_ends h (.bind (fun _ => raises_readDt) fun a _ => effect_wrote _ (fun _ => rfl) fun _ => rfl)
  | or x y | and x y | xor x y =>
    exact commit_of_ends h (.bind (fun _ => raises_readV) fun a _ => .bind (fun _ => raises_readV) fun b _ =>
      effect_wrote _ (fun _ => rfl) fun _ => rfl)
  | add x y | sub x y | subn x y =>
    exact commit_of_ends h (.bind (fun _ => raises_checkAlias (by simp)) fun _ _ => .bind (fun _ => raises_readV)
      fun a _ => .bind (fun _ => raises_readV) fun b _ => .byAliasMode
        (effect_setFlag_setV _ _ (fun _ => rfl) fun _ => rfl) (effect_setV_setFlag _ _ (fun _ => rfl) fun _ => rfl))
  | shl x y | shr x y =>
    refine commit_of_ends h (.bind (fun _ => raises_checkAlias (by simp)) fun _ _ => .bind (fun _ => raises_readV)
      fun b _ => .byAliasMode ⟨rfl, fun r hr => ?_⟩ (effect_setV_setFlag _ _ (fun _ => rfl) fun _ => rfl))
    have hr' : ¬ (r = x ∨ r = 15) := of_decide_eq_false hr
    exact (State.setV_v_of_ne (mt .inl hr')).trans (State.setV_setFlag_v_of_ne hr')
  | drw x y n =>
    exact commit_of_ends h (.bind (fun _ => raises_readV) fun a _ => .bind (fun _ => raises_readV) fun b _ =>
      .bind (fun _ => raises_spriteRows) fun rows _ => ⟨rfl, fun r hr => State.setFlag_v_of_ne (of_decide_eq_false hr)⟩)
  | addidx x =>
    refine commit_of_ends h (.bind (fun _ => raises_readI) fun w _ => .bind (fun _ => raises_readV) fun a _ => ?_)
    exact ⟨by rw [State.setIndexFlag_frame]; rfl, fun r hr => State.setIndexFlag_v_of_ne (of_decide_eq_false hr)⟩
  | ldf x =>
    exact commit_of_ends h (.bind (fun _ => raises_readV) fun a _ => ⟨rfl, fun _ _ => rfl⟩)
  | ldb x =>
    exact commit_of_ends h (.bind (fun _ => raises_readV) fun v _ => .bind (fun _ => raises_transferBase)
      fun a _ => ⟨rfl, fun _ _ => rfl⟩)
  | stm x =>
    exact commit_of_ends h (.bind (fun _ => raises_transferBase) fun a _ => .bind (fun _ => raises_readVs)
      fun bs _ => ⟨rfl, fun _ _ => rfl⟩)
  | ldm x =>
    refine commit_of_ends h (.bind (fun _ => raises_transferBase) fun a _ => .bind (fun _ => raises_loadBytes)
      fun bs _ => ⟨State.setVs_frame _ _ _, fun r hr => State.setVs_v_of_not_mem fun hm => ?_⟩)
    exact of_decide_eq_false hr ((mem_regsUpTo x r).1 hm)
  | lddtv x | ldstv x =>
    exact commit_of_ends h (.bind (fun _ => raises_readV) fun a _ => ⟨rfl, fun _ _ => rfl⟩)

end Machine
end Sys2Proof
end

section
/-! PROOFS. Which instruction may write what (10_state.md, 20_memory.md section 1), and that a fault commits nothing
(40_cycle.md section 4): each read off the inversion of `exec`. -/

namespace Sys2Proof.Machine

/-! ## Frames of `exec` and of `step` -/

/-- An effect keeps the fault record. -/
theorem effect_fault {i : Instr} {s t : State} (h : i.Effect s t) : t.fault = s.fault := by
  rw [h.frame]; cases i <;> rfl

/-- Effect or fault entry, only PC, the fault record and the fields of the row of `i` differ. -/
theorem exec_frame {i : Instr} {s t : State} (h : exec i s = .next t) :
    t = { Instr.overwrite s t i with pc := t.pc, fault := t.fault } := by
  rcases exec_cases h with he | ⟨tr, -, rfl⟩
  · exact congrArg (fun u : State => { u with pc := t.pc, fault := t.fault }) he.frame
  · cases i <;> rfl

/-- No instruction refuses or stops the machine. -/
theorem exec_next (i : Instr) (s : State) : ∃ t, exec i s = .next t := by
  cases i with
  | cls | jp _ | ldi _ _ | ldidx _ | rnd _ _ | ldk _ => exact ⟨_, rfl⟩
  | _ => exact State.commit_next _ _ _

section ExecFrame
variable {i : Instr} {s t : State} (h : exec i s = .next t)
include h

theorem exec_dt_ne (hne : t.dt ≠ s.dt) : ∃ x, i = .lddtv x := by
  cases i with
  | lddtv x => exact ⟨x, rfl⟩
  | _ => exact absurd (congrArg State.dt (exec_frame h)) hne

theorem exec_st_ne (hne : t.st ≠ s.st) : ∃ x, i = .ldstv x := by
  cases i with
  | ldstv x => exact ⟨x, rfl⟩
  | _ => exact absurd (congrArg State.st (exec_frame h)) hne

theorem exec_fb_ne (hne : t.fb ≠ s.fb) : i = .cls ∨ ∃ x y n, i = .drw x y n := by
  cases i with
  | cls => exact .inl rfl
  | drw x y n => exact .inr ⟨x, y, n, rfl⟩
  | _ => exact absurd (congrArg State.fb (exec_frame h)) hne

theorem exec_mem (hs : i.stores = false) : t.mem = s.mem := by
  cases i with
  | ldb | stm => cases hs
  | _ => exact (congrArg State.mem (exec_frame h)).trans rfl

theorem exec_sp_ne (hne : t.sp ≠ s.sp) : i = .ret ∨ ∃ nnn, i = .call nnn := by
  cases i with
  | ret => exact .inl rfl
  | call nnn => exact .inr ⟨nnn, rfl⟩
  | _ => exact absurd (congrArg State.sp (exec_frame h)) hne

theorem exec_stack_ne (hne : t.stack ≠ s.stack) : ∃ nnn, i = .call nnn := by
  cases i with
  | call nnn => exact ⟨nnn, rfl⟩
  | _ => exact absurd (congrArg State.stack (exec_frame h)) hne

theorem exec_i_ne (hne : t.i ≠ s.i) : (∃ nnn, i = .ldidx nnn) ∨ (∃ x, i = .addidx x) ∨ ∃ x, i = .ldf x := by
  cases i with
  | ldidx nnn => exact .inl ⟨nnn, rfl⟩
  | addidx x => exact .inr (.inl ⟨x, rfl⟩)
  | ldf x => exact .inr (.inr ⟨x, rfl⟩)
  | _ => exact absurd (congrArg State.i (exec_frame h)) hne

theorem exec_keys : t.keys = s.keys := by rw [exec_frame h]; cases i <;> rfl

theorem exec_run : t.run = s.run := by rw [exec_frame h]; cases i <;> rfl

theorem exec_cfg : t.cfg = s.cfg := by rw [exec_frame h]; cases i <;> rfl

theorem exec_rand_draws (hr : ∀ x nn, i ≠ .rnd x nn) : t.rand = s.rand ∧ t.draws = s.draws := by
  cases i with
  | rnd x nn => exact absurd rfl (hr x nn)
  | _ => exact ⟨(congrArg State.rand (exec_frame h)).trans rfl, (congrArg State.draws (exec_frame h)).trans rfl⟩

end ExecFrame

/-- A step that changes a field the fetch leaves alone executes an instruction that changes it. -/
theorem step_field_ne {α : Type} {s t : State} (f : State → α) (hadv : f s.advance = f s)
    (htrap : ∀ tr, f (s.takeFault none tr) = f s) (h : step s = .next t) (hne : f t ≠ f s) :
    ∃ i, s.Fetches i ∧ exec i s = .next t := by
  rcases step_cases h with ⟨-, -, rfl⟩ | ⟨-, tr, -, rfl⟩ | ⟨-, w, e, -, -, rfl⟩ | ⟨-, w, i, hw, hd, he⟩
  · exact absurd rfl hne
  · exact absurd (htrap tr) hne
  · exact absurd hadv hne
  · exact ⟨i, ⟨w, hw, hd⟩, he⟩

/-- The report of a step that executes is read from its outcome. -/
theorem stepReport_eq_reportOf {s : State} (h : s.Running) {e : Except Trap Word} (he : s.fetch = e)
    (hd : ∀ w, e = .ok w → ∃ i, decodeWord w = .ok i) : stepReport s = reportOf (step s) := by
  obtain ⟨hf, hr⟩ := h
  cases e with
  | error tr => simp only [stepReport, hf, hr, he]
  | ok w =>
    obtain ⟨i, hi⟩ := hd w rfl
    simp only [stepReport, hf, hr, he, hi]

/-! ## The obligations -/

/-- Settles O15: the two cases of the inversion. -/
theorem everyInstructionCompletesOrFaultsWhole : Obligations.EveryInstructionCompletesOrFaultsWhole := by
  intro i s
  obtain ⟨t, h⟩ := exec_next i s
  refine ⟨t, h, ?_⟩
  rcases exec_cases h with he | ⟨tr, -, rfl⟩
  · exact .inl (effect_fault he)
  · exact .inr ⟨_, rfl, rfl, rfl⟩

/-- Settles O10: only a failed fetch and a raised trap set a record, and both leave the rest as it is. -/
theorem faultingStepCommitsNothing : Obligations.FaultingStepCommitsNothing := by
  intro s t r hrun h hr
  have hnone : s.fault = none := hrun.1
  have hrep : reportOf (step s) = .faulted r := by simp only [h, reportOf, hr]
  rcases step_cases h with ⟨-, hp, -⟩ | ⟨-, tr, hw, rfl⟩ | ⟨-, w, e, -, -, rfl⟩ | ⟨-, w, i, hw, hd, he⟩
  · exact absurd (hrun.2.symm.trans hp) nofun
  · obtain rfl : s.recordOf none tr = r := Option.some.inj hr
    refine ⟨rfl, rfl, by cases tr with | mk c a => cases c <;> rfl, by rw [hw]; rfl, ?_⟩
    rw [stepReport_eq_reportOf hrun hw nofun, hrep]
  · exact absurd (hnone.symm.trans hr) nofun
  · rcases exec_cases he with heff | ⟨tr, -, rfl⟩
    · exact absurd (hnone.symm.trans ((effect_fault heff).symm.trans hr)) nofun
    · obtain rfl : s.recordOf (some (encode i)) tr = r := Option.some.inj hr
      refine ⟨rfl, rfl, by cases tr with | mk c a => cases c <;> rfl, ?_, ?_⟩
      · rw [hw, ← (encode_of_decodeWord hd).1]; rfl
      · rw [stepReport_eq_reportOf hrun hw fun w' hw' => ⟨i, Except.ok.inj hw' ▸ hd⟩, hrep]

/-- Settles O16: a timer that a step changed was changed by the instruction at PC. -/
theorem stepWritesTimersOnlyByFx15AndFx18 : Obligations.StepWritesTimersOnlyByFx15AndFx18 := by
  refine fun s t h => ⟨fun hne => ?_, fun hne => ?_⟩
  · obtain ⟨i, hi, he⟩ := step_field_ne State.dt rfl (fun _ => rfl) h hne
    obtain ⟨x, rfl⟩ := exec_dt_ne he hne
    exact ⟨x, hi⟩
  · obtain ⟨i, hi, he⟩ := step_field_ne State.st rfl (fun _ => rfl) h hne
    obtain ⟨x, rfl⟩ := exec_st_ne he hne
    exact ⟨x, hi⟩

/-- Settles O17: a framebuffer that a step changed was changed by the instruction at PC. -/
theorem stepWritesFramebufferOnlyByClearAndDraw : Obligations.StepWritesFramebufferOnlyByClearAndDraw := by
  intro s t h hne
  obtain ⟨i, hi, he⟩ := step_field_ne State.fb rfl (fun _ => rfl) h hne
  rcases exec_fb_ne he hne with rfl | ⟨x, y, n, rfl⟩
  · exact .inl hi
  · exact .inr ⟨x, y, n, hi⟩

/-- Settles O18: memory and what an unlisted address reads as are the same. -/
theorem nonStoringInstructionsKeepEveryByte : Obligations.NonStoringInstructionsKeepEveryByte := by
  intro i s t h hs a
  rw [State.byteAt, exec_mem h hs, exec_cfg h, State.byteAt]

/-- Settles O20, by the frame of `exec`. -/
theorem onlyCallAndReturnTouchTheStack : Obligations.OnlyCallAndReturnTouchTheStack :=
  fun _ _ _ h => ⟨exec_sp_ne h, exec_stack_ne h⟩

/-- Settles O21, by the frame of `exec`. -/
theorem onlyIndexInstructionsWriteI : Obligations.OnlyIndexInstructionsWriteI := fun _ _ _ h => exec_i_ne h

/-- Settles O22: an effect keeps the registers outside its row, a fault entry keeps all. -/
theorem onlyListedRegistersAreWritten : Obligations.OnlyListedRegistersAreWritten := by
  intro i s t r h hr
  rcases exec_cases h with he | ⟨tr, -, rfl⟩
  · exact he.regs r hr
  · rfl

/-- Settles O23, by the frame of `exec`. -/
theorem instructionsLeaveInputsAndParametersAlone : Obligations.InstructionsLeaveInputsAndParametersAlone :=
  fun _ _ _ h => ⟨exec_keys h, exec_run h, exec_cfg h, exec_rand_draws h⟩

end Sys2Proof.Machine
end

section
/-! PROOFS. The invariant (10_state.md sections 4, 5 and 10, 20_memory.md section 1): what the two stores leave, the
bound of PC and of the return addresses, and the invariant kept by a step and by every transaction. -/

namespace Sys2Proof.Machine

/-! ## The two stores -/

/-- FX55 faults, or its check passed, V[0..X] have values and it stored them at I. -/
theorem exec_stm_cases {x : Reg} {s t : State} (h : exec (.stm x) s = .next t) :
    (∃ tr, t = s.takeFault (some (encode (.stm x))) tr) ∨
    (s.i.toNat + (x.val + 1) ≤ 4096 ∧ (∀ r ≤ x, s.valuelessV r = false) ∧
      t = s.advance.storeBytes s.i.toNat ((regsUpTo x).map (s.v[·]))) := by
  rcases State.commit_cases h with hok | ⟨tr, -, rfl⟩
  · obtain ⟨a, ha, hrest⟩ := bind_eq_ok.1 hok
    obtain ⟨bs, hbs, ht⟩ := bind_eq_ok.1 hrest
    obtain ⟨-, rfl, hrange, -⟩ := (State.transferBase_eq_ok (Nat.le_add_left 1 _)).1 ha
    obtain ⟨hv, rfl⟩ := State.readVs_eq_ok.1 hbs
    exact .inr ⟨hrange, fun r hr => hv r ((mem_regsUpTo x r).2 hr), (Except.ok.inj ht).symm⟩
  · exact .inl ⟨tr, rfl⟩

/-- FX33 faults, or its check passed and it stored the digits of V[X] at I. -/
theorem exec_ldb_cases {x : Reg} {s t : State} (h : exec (.ldb x) s = .next t) :
    (∃ tr, t = s.takeFault (some (encode (.ldb x))) tr) ∨
    (s.i.toNat + 3 ≤ 4096 ∧ t = s.advance.storeBytes s.i.toNat (decimalDigits s.v[x])) := by
  rcases State.commit_cases h with hok | ⟨tr, -, rfl⟩
  · obtain ⟨v, hv, hrest⟩ := bind_eq_ok.1 hok
    obtain ⟨a, ha, ht⟩ := bind_eq_ok.1 hrest
    obtain ⟨-, rfl⟩ := State.readV_eq_ok.1 hv
    obtain ⟨-, rfl, hrange, -⟩ := (State.transferBase_eq_ok (by decide)).1 ha
    exact .inr ⟨hrange, (Except.ok.inj ht).symm⟩
  · exact .inl ⟨tr, rfl⟩

@[simp] theorem decimalDigits_length (v : Byte) : (decimalDigits v).length = 3 := rfl

/-- A store leaves every byte outside its range. -/
theorem State.byteAt_storeBytes_of_outside {s : State} (hm : Memory.wf s.cfg.initPolicy.unlisted s.mem) {a a' : Nat}
    {bs : List Byte} (h : a' < a ∨ a + bs.length ≤ a') : (s.advance.storeBytes a bs).byteAt a' = s.byteAt a' :=
  (State.byteAt_storeBytes (s := s.advance) hm a bs a').trans (if_neg (by omega))

/-! ## What an instruction keeps of the invariant -/

theorem word_toNat_add_le (w k : Word) : (w + k).toNat ≤ w.toNat + k.toNat :=
  BitVec.toNat_add w k ▸ Nat.mod_le _ _

section Kept
variable {i : Instr} {s t : State} (h : exec i s = .next t)
include h

/-- The canonical form of memory is kept: the two stores stay below 4096, and no other instruction writes memory. -/
theorem exec_memory_wf (hm : Memory.wf s.cfg.initPolicy.unlisted s.mem) :
    Memory.wf t.cfg.initPolicy.unlisted t.mem := by
  rw [exec_cfg h]
  by_cases hs : i.stores = false
  · rwa [exec_mem h hs]
  · cases i with
    | ldb x =>
      rcases exec_ldb_cases h with ⟨tr, rfl⟩ | ⟨hrange, rfl⟩
      · exact hm
      · exact Memory.writeBytes_wf hm (by simpa using hrange)
    | stm x =>
      rcases exec_stm_cases h with ⟨tr, rfl⟩ | ⟨hrange, -, rfl⟩
      · exact hm
      · exact Memory.writeBytes_wf hm (by simpa using hrange)
    | _ => exact absurd rfl hs

/-- Where PC goes: past the word, past the next one, nowhere, to a 12-bit target, or to the entry a return pops. -/
theorem exec_pc_cases : t.pc = s.pc ∨ t.pc = s.pc + 2 ∨ t.pc = s.pc + 4 ∨ t.pc.toNat < 4096 ∨
    ∃ _ : s.sp.val ≠ 0, t.pc = s.stack[s.sp.val - 1]'(by omega) := by
  rcases exec_cases h with he | ⟨tr, -, rfl⟩
  · have hpc := congrArg State.pc he.frame
    cases i with
    | jp nnn | call nnn => exact .inr (.inr (.inr (.inl (by rw [hpc]; exact addressOf_toNat nnn ▸ nnn.isLt))))
    | sei | snei | se | sne | skp | sknp =>
      rw [hpc, Instr.overwrite]
      split
      · exact .inr (.inr (.inl rfl))
      · exact .inr (.inl rfl)
    | ldk =>
      rw [hpc, Instr.overwrite]
      split
      · exact .inl rfl
      · exact .inr (.inl rfl)
    | ret =>
      by_cases hsp : s.sp.val = 0
      · rw [exec_ret_empty hsp] at h; cases h; exact .inl rfl
      · rw [exec_ret_of_ne_zero hsp] at h; cases h; exact .inr (.inr (.inr (.inr ⟨hsp, rfl⟩)))
    | _ => exact .inr (.inl hpc)
  · exact .inl rfl

/-- The live entries after an instruction are live entries before it, or the address after it. -/
theorem exec_stack_cases {j : Nat} (hj : j < 12) (hlive : j < t.sp.val) :
    t.stack[j] = s.pc + 2 ∨ (j < s.sp.val ∧ t.stack[j] = s.stack[j]) := by
  by_cases hcall : ∃ nnn, i = .call nnn
  · obtain ⟨nnn, rfl⟩ := hcall
    by_cases hsp : s.sp.val < 12
    · rw [exec_call_of_lt nnn hsp] at h
      cases h
      by_cases hjs : s.sp.val = j
      · subst hjs; exact .inl (by simp)
      · exact .inr ⟨by simp at hlive; omega, by simp [hjs]⟩
    · rw [exec_call_full nnn (by omega)] at h
      cases h
      exact .inr ⟨hlive, rfl⟩
  · have hst : t.stack = s.stack := by_contra fun hne => hcall (exec_stack_ne h hne)
    refine .inr ⟨?_, by simp only [hst]⟩
    by_cases hret : i = .ret
    · subst hret
      by_cases hsp : s.sp.val = 0
      · rw [exec_ret_empty hsp] at h; cases h; exact hlive
      · rw [exec_ret_of_ne_zero hsp] at h; cases h; simp at hlive; omega
    · have hsp : t.sp = s.sp := by_contra fun hne => (exec_sp_ne h hne).elim hret hcall
      rwa [hsp] at hlive

/-- An instruction at an address that can be fetched keeps the invariant. -/
theorem exec_keeps_inv (hi : s.Inv) (hnone : s.fault = none) (hpc : s.pc.toNat + 1 < 4096) : t.Inv := by
  have hmem := exec_memory_wf h hi.memory
  have hpc2 : (s.pc + 2).toNat ≤ s.pc.toNat + 2 := word_toNat_add_le s.pc 2
  have hpc4 : (s.pc + 4).toNat ≤ s.pc.toNat + 4 := word_toNat_add_le s.pc 4
  have hpcb : t.pc.toNat ≤ 0x1002 := by
    rcases exec_pc_cases h with e | e | e | e | ⟨hj, e⟩
    · rw [e]; exact hi.pcBound
    · rw [e]; omega
    · rw [e]; omega
    · omega
    · rw [e]; have := hi.stackBound (s.sp.val - 1) (by omega) (by omega); omega
  have hstack : ∀ (j : Nat) (hj : j < 12), j < t.sp.val → (t.stack[j]).toNat ≤ 0x1000 := by
    intro j hj hlive
    rcases exec_stack_cases h hj hlive with e | ⟨hlive', e⟩
    · rw [e]; omega
    · rw [e]; exact hi.stackBound j hj hlive'
  rcases exec_cases h with he | ⟨tr, hq, rfl⟩
  · have hf : ∀ r, t.fault ≠ some r := fun r e => absurd (hnone.symm.trans ((effect_fault he).symm.trans e)) nofun
    exact ⟨hmem, hpcb, hstack, fun r e => absurd e (hf r), fun r e => absurd e (hf r), fun r e => absurd e (hf r)⟩
  · exact ⟨hmem, hpcb, hstack, fun r e => Option.some.inj e ▸ rfl, fun r e => Option.some.inj e ▸ rfl,
      fun r e => Option.some.inj e ▸ hq.admitted⟩

end Kept

/-! ## What every step and every transaction keep -/

/-- A fault entry keeps the invariant when the parameters allow its cause. -/
theorem takeFault_keeps_inv {s : State} (hi : s.Inv) (w : Option Word) {tr : Trap}
    (h : tr.cause.admittedBy s.cfg = true) : (s.takeFault w tr).Inv :=
  ⟨hi.memory, hi.pcBound, hi.stackBound, fun _ e => Option.some.inj e ▸ rfl, fun _ e => Option.some.inj e ▸ rfl,
    fun _ e => Option.some.inj e ▸ h⟩

theorem fetch_admitted {s : State} {tr : Trap} (h : s.fetch = .error tr) : tr.cause.admittedBy s.cfg = true := by
  rcases State.fetch_eq_error h with ⟨-, rfl⟩ | ⟨hc, hp⟩
  · rfl
  · rw [hc]; exact decide_eq_true hp

theorem step_keeps_inv {s t : State} (hi : s.Inv) (h : step s = .next t) : t.Inv := by
  rcases step_cases h with ⟨-, -, rfl⟩ | ⟨-, tr, hw, rfl⟩ | ⟨hrun, w, e, hw, -, rfl⟩ | ⟨hrun, w, i, hw, -, he⟩
  · exact hi
  · exact takeFault_keeps_inv hi none (fetch_admitted hw)
  · obtain ⟨hpc, -⟩ := State.fetch_eq_ok.1 hw
    have hno : ∀ r, s.fault ≠ some r := fun r e => absurd (hrun.1.symm.trans e) nofun
    refine ⟨hi.memory, ?_, hi.stackBound, hi.faultCode, fun r e => absurd e (hno r), hi.faultAdmitted⟩
    exact Nat.le_trans (word_toNat_add_le s.pc 2) (show s.pc.toNat + 2 ≤ 0x1002 by omega)
  · exact exec_keeps_inv he hi hrun.1 (State.fetch_eq_ok.1 hw).1

/-- The invariant says nothing of the timers, the latch, the run flag and the random bytes. -/
theorem inv_of_same {s t : State} (hi : s.Inv) (hc : t.cfg = s.cfg) (hm : t.mem = s.mem) (hpc : t.pc = s.pc)
    (hst : t.stack = s.stack) (hsp : t.sp = s.sp) (hf : t.fault = s.fault) : t.Inv := by
  constructor
  · rw [hc, hm]; exact hi.memory
  · rw [hpc]; exact hi.pcBound
  · intro j hj hl; simp only [hst]; exact hi.stackBound j hj (hsp ▸ hl)
  · rw [hf]; exact hi.faultCode
  · rw [hf, hpc]; exact hi.faultPc
  · rw [hf, hc]; exact hi.faultAdmitted

/-- After a reset with no image: memory holds the font alone, the stack is empty, PC is 0x200. -/
theorem initial_inv (cfg : Config) : (State.initial cfg).Inv := by
  refine ⟨Memory.writeBytes_wf ⟨List.Pairwise.nil, nofun⟩ ?_, by simp [State.initial], ?_, nofun, nofun, nofun⟩
  · simp
  · intro j hj hl; exact absurd hl (Nat.not_lt_zero j)

theorem resetWith_inv (s : State) (image : List Byte) : (s.resetWith image).Inv := by
  have hbase : ({ State.initial s.cfg with rand := s.rand, draws := s.draws } : State).Inv :=
    inv_of_same (initial_inv s.cfg) rfl rfl rfl rfl rfl rfl
  unfold State.resetWith
  split
  · rename_i hl
    have hl' : image.length ≤ 3584 := hl
    exact ⟨Memory.writeBytes_wf hbase.memory (by omega), hbase.pcBound, hbase.stackBound, nofun, nofun, nofun⟩
  · exact ⟨hbase.memory, hbase.pcBound, hbase.stackBound, fun _ e => Option.some.inj e ▸ rfl,
      fun _ e => Option.some.inj e ▸ rfl, fun _ e => Option.some.inj e ▸ rfl⟩

theorem stepWith_keeps_inv {s : State} (hi : s.Inv) (r : Byte) : (s.stepWith r).Inv := by
  have hr : ({ s with rand := r } : State).Inv := inv_of_same hi rfl rfl rfl rfl rfl rfl
  unfold State.stepWith
  split
  · split
    · exact step_keeps_inv hr ‹_›
    · exact hi
    · exact hi
  · exact hi

theorem tick_keeps_inv {s : State} (hi : s.Inv) : s.tick.Inv := by
  unfold State.tick
  split
  · exact inv_of_same hi rfl rfl rfl rfl rfl rfl
  · exact hi

/-! ## The obligations -/

/-- Settles O12: fetch faults, unimplemented words and instructions each keep the invariant. -/
theorem stepKeepsInv : Obligations.StepKeepsInv := fun _ _ => step_keeps_inv

/-- Settles O13: the reset state is the initial one under the default parameters. -/
theorem resetStateMeetsInv : Obligations.ResetStateMeetsInv := initial_inv Config.default

/-- Settles O14: a case per transaction. -/
theorem everyTransactionKeepsInv : Obligations.EveryTransactionKeepsInv := by
  intro a s hi
  cases a with
  | reset image => exact resetWith_inv s image
  | step r => exact stepWith_keeps_inv hi r
  | tick => exact tick_keeps_inv hi
  | setKeys k | setRun f => exact inv_of_same hi rfl rfl rfl rfl rfl rfl
  | getRun | readFramebuffer | readSoundTimer => exact hi

/-- Settles O19: a fault stores nothing, a store leaves the bytes outside its range, the rest is the frame. -/
theorem storesKeepEverythingElse : Obligations.StoresKeepEverythingElse := by
  refine fun x s t hm => ⟨fun h => ⟨fun a ha => ?_, ?_⟩, fun h => ⟨fun a ha => ?_, exec_frame h⟩⟩
  · rcases exec_ldb_cases h with ⟨tr, rfl⟩ | ⟨-, rfl⟩
    · rfl
    · exact State.byteAt_storeBytes_of_outside hm (by simpa using ha)
  · exact exec_frame h
  · rcases exec_stm_cases h with ⟨tr, rfl⟩ | ⟨-, -, rfl⟩
    · rfl
    · exact State.byteAt_storeBytes_of_outside hm (by simpa using ha)

end Sys2Proof.Machine
end

section
/-! PROOFS. What no instruction reads: the random byte but by CXNN (40_cycle.md section 3), ST (10_state.md section 6),
the stack but by a call and a return (10_state.md section 5). One edit of the unread fields stands for the three. -/

namespace Sys2Proof.Machine

/-- An edit of the fields that instructions pass on without reading them. -/
structure UnreadEdit where
  rand  : Byte → Byte
  st    : Byte → Byte
  mark  : Bool → Bool
  stack : Vector Word 12 → Vector Word 12

/-- The edit that changes nothing. -/
def UnreadEdit.keep : UnreadEdit where
  rand  := id
  st    := id
  mark  := id
  stack := id

/-- `s` with its unread fields edited. -/
def State.edit (s : State) (g : UnreadEdit) : State :=
  { s with rand := g.rand s.rand, st := g.st s.st, unset := { s.unset with st := g.mark s.unset.st },
           stack := g.stack s.stack }

section Edit
variable {g : UnreadEdit} {s t : State}

/-- `e'` ends as `e` does, with the edit made. -/
def EndsEdited (g : UnreadEdit) (e e' : Except Trap State) : Prop := e' = (State.edit · g) <$> e

theorem EndsEdited.bind {α : Type} {x x' : Except Trap α} {k k' : α → Except Trap State} (hx : x' = x)
    (hk : ∀ a, EndsEdited g (k a) (k' a)) : EndsEdited g (x >>= k) (x' >>= k') := by
  subst hx
  cases x' with
  | ok a => exact hk a
  | error tr => rfl

theorem commit_edit {i : Instr} {e e' : Except Trap State} (h : s.commit i e = .next t) (he : EndsEdited g e e') :
    (s.edit g).commit i e' = .next (t.edit g) := by
  subst he
  rcases State.commit_cases h with rfl | ⟨tr, rfl, rfl⟩ <;> rfl

theorem edit_loadBytes (a n : Nat) : (s.edit g).loadBytes a n = s.loadBytes a n :=
  State.loadBytes_congr (s := s) (u := s.edit g) rfl rfl a n

theorem edit_readVs (xs : List Reg) : (s.edit g).readVs xs = s.readVs xs :=
  State.readVs_congr (s := s) (u := s.edit g) rfl rfl rfl xs

theorem edit_spriteRows (n y0 : Nat) : (s.edit g).spriteRows n y0 = s.spriteRows n y0 := by
  simp only [State.spriteRows, edit_loadBytes]; rfl

theorem edit_byAliasMode (a b : State) :
    EndsEdited g (.ok (s.byAliasMode a b)) (.ok ((s.edit g).byAliasMode (a.edit g) (b.edit g))) := by
  have hc : (s.edit g).cfg = s.cfg := rfl
  unfold EndsEdited State.byAliasMode
  rw [hc]
  cases s.cfg.aliasMode <;> rfl

theorem edit_skipIf (c : Bool) : EndsEdited g (.ok (s.advance.skipIf c)) (.ok ((s.edit g).advance.skipIf c)) := by
  cases c <;> rfl

theorem edit_setIndexFlag (c : Bool) : EndsEdited g (.ok (s.setIndexFlag c)) (.ok ((s.edit g).setIndexFlag c)) := by
  have hc : (s.edit g).cfg = s.cfg := rfl
  unfold EndsEdited State.setIndexFlag
  rw [hc]
  cases s.cfg.indexFlagMode <;> rfl

theorem edit_setVs (xs : List Reg) (bs : List Byte) : (s.edit g).setVs xs bs = (s.setVs xs bs).edit g := by
  induction xs generalizing s bs with
  | nil => rfl
  | cons x xs ih => cases bs with
    | nil => rfl
    | cons b bs => exact ih (s := s.setV x b) bs

/-- An instruction passes an edit on, where the edit keeps what the instruction reads or writes of the edited fields. -/
theorem exec_edit {i : Instr} (h : exec i s = .next t) (hrand : ∀ x nn, i = .rnd x nn → g.rand = id)
    (hst : ∀ x, i = .ldstv x → g.st = id ∧ g.mark = id) (hret : i = .ret → g.stack = id)
    (hcall : ∀ nnn, i = .call nnn → g.stack = id) : exec i (s.edit g) = .next (t.edit g) := by
  cases i with
  | cls | jp nnn | ldidx nnn | ldi x nn => cases h; rfl
  | rnd x nn => obtain ⟨grand, gst, gmark, gstack⟩ := g; cases hrand x nn rfl; cases h; rfl
  | ldk x =>
    cases hk : lowestPressed s.keys with
    | none => rw [exec_ldk_none hk] at h; cases h; exact exec_ldk_none (s := s.edit _) hk
    | some k => rw [exec_ldk_some hk] at h; cases h; exact exec_ldk_some (s := s.edit _) hk
  | ret =>
    obtain ⟨grand, gst, gmark, gstack⟩ := g
    cases hret rfl
    by_cases hsp : s.sp.val = 0
    · rw [exec_ret_empty hsp] at h; cases h; exact exec_ret_empty (s := s.edit _) hsp
    · rw [exec_ret_of_ne_zero hsp] at h; cases h; exact exec_ret_of_ne_zero (s := s.edit _) hsp
  | call nnn =>
    obtain ⟨grand, gst, gmark, gstack⟩ := g
    cases hcall nnn rfl
    by_cases hsp : s.sp.val < 12
    · rw [exec_call_of_lt nnn hsp] at h; cases h; exact exec_call_of_lt nnn (s := s.edit _) hsp
    · have hfull : s.sp.val = 12 := by omega
      rw [exec_call_full nnn hfull] at h; cases h; exact exec_call_full nnn (s := s.edit _) hfull
  | sei x nn | snei x nn => exact commit_edit h (.bind rfl fun a => edit_skipIf _)
  | se x y | sne x y => exact commit_edit h (.bind rfl fun a => .bind rfl fun b => edit_skipIf _)
  | skp x | sknp x => exact commit_edit h (.bind rfl fun p => edit_skipIf _)
  | addi x nn | ld x y | ldvdt x | ldf x | lddtv x => exact commit_edit h (.bind rfl fun a => rfl)
  | or x y | and x y | xor x y => exact commit_edit h (.bind rfl fun a => .bind rfl fun b => rfl)
  | add x y | sub x y | subn x y =>
    exact commit_edit h (.bind rfl fun _ => .bind rfl fun a => .bind rfl fun b => edit_byAliasMode _ _)
  | shl x y | shr x y => exact commit_edit h (.bind rfl fun _ => .bind rfl fun b => edit_byAliasMode _ _)
  | drw x y n =>
    exact commit_edit h (.bind rfl fun a => .bind rfl fun b => .bind (edit_spriteRows _ _) fun rows => rfl)
  | addidx x => exact commit_edit h (.bind rfl fun w => .bind rfl fun a => edit_setIndexFlag _)
  | ldb x => exact commit_edit h (.bind rfl fun v => .bind rfl fun a => rfl)
  | stm x => exact commit_edit h (.bind rfl fun a => .bind (edit_readVs _) fun bs => rfl)
  | ldm x =>
    exact commit_edit h (.bind rfl fun a => .bind (edit_loadBytes _ _) fun bs =>
      congrArg Except.ok (edit_setVs (g := g) (s := s.advance) _ _))
  | ldstv x =>
    obtain ⟨grand, gst, gmark, gstack⟩ := g
    obtain ⟨hs, hm⟩ := hst x rfl
    cases hs; cases hm
    exact commit_edit h (.bind rfl fun a => rfl)

end Edit

/-! ## FX18 with another ST -/

theorem exec_ldstv_ok {x : Reg} {s : State} {a : Byte} (h : s.readV x = .ok a) :
    exec (.ldstv x) s = .next (s.advance.setSt a) := commit_bind_ok h rfl

theorem exec_ldstv_error {x : Reg} {s : State} {tr : Trap} (h : s.readV x = .error tr) :
    exec (.ldstv x) s = .next (s.takeFault (some (encode (.ldstv x))) tr) := commit_bind_error h

/-! ## Calls and returns with another stack -/

/-- The stack entries below `n` are the same. -/
def AgreeBelow (n : Nat) (k l : Vector Word 12) : Prop := ∀ (j : Nat) (_ : j < 12), j < n → k[j] = l[j]

/-- A call with other dead entries pushes the same address; it reads no entry. -/
theorem exec_call_stack {nnn : BitVec 12} {s t : State} {k : Vector Word 12} (h : exec (.call nnn) s = .next t)
    (hk : AgreeBelow s.sp.val k s.stack) :
    ∃ k', exec (.call nnn) { s with stack := k } = .next { t with stack := k' } ∧ AgreeBelow t.sp.val k' t.stack := by
  by_cases hsp : s.sp.val < 12
  · rw [exec_call_of_lt nnn hsp] at h
    cases h
    refine ⟨_, exec_call_of_lt nnn (s := { s with stack := k }) hsp, fun j hj hlive => ?_⟩
    have hlive' : j < s.sp.val + 1 := hlive
    by_cases hjs : s.sp.val = j
    · subst hjs; simp
    · simpa [hjs] using hk j hj (by omega)
  · have hfull : s.sp.val = 12 := by omega
    rw [exec_call_full nnn hfull] at h
    cases h
    exact ⟨k, exec_call_full nnn (s := { s with stack := k }) hfull, hk⟩

/-- A return with other dead entries pops the same address, since the entry it pops is a live one. -/
theorem exec_ret_stack {s t : State} {k : Vector Word 12} (h : exec .ret s = .next t)
    (hk : AgreeBelow s.sp.val k s.stack) :
    exec .ret { s with stack := k } = .next { t with stack := k } ∧ AgreeBelow t.sp.val k t.stack := by
  by_cases hsp : s.sp.val = 0
  · rw [exec_ret_empty hsp] at h
    cases h
    exact ⟨exec_ret_empty (s := { s with stack := k }) hsp, hk⟩
  · rw [exec_ret_of_ne_zero hsp] at h
    cases h
    have hpop := hk (s.sp.val - 1) (by omega) (by omega)
    refine ⟨?_, fun j hj hlive => hk j hj (Nat.lt_of_lt_of_le hlive (Nat.sub_le _ _))⟩
    rw [exec_ret_of_ne_zero (s := { s with stack := k }) hsp]
    simp only [hpop]

/-! ## The obligations -/

/-- Settles O24: the edit of the random byte alone. -/
theorem randomByteMattersToCxnnAlone : Obligations.RandomByteMattersToCxnnAlone := by
  intro i s t r hi h
  exact exec_edit (g := { UnreadEdit.keep with rand := fun _ => r }) h (fun x nn e => absurd e (hi x nn))
    (fun _ _ => ⟨rfl, rfl⟩) (fun _ => rfl) fun _ _ => rfl

/-- Settles O25: the edit of ST and its mark alone; FX18 writes both over. -/
theorem soundTimerIsReadByNoInstruction : Obligations.SoundTimerIsReadByNoInstruction := by
  intro i s t b m h
  by_cases hi : ∃ x, i = .ldstv x
  · obtain ⟨x, rfl⟩ := hi
    cases hv : s.readV x with
    | ok a =>
      rw [exec_ldstv_ok hv] at h
      cases h
      exact ⟨_, exec_ldstv_ok (s := { s with st := b, unset := _ }) hv, rfl⟩
    | error tr =>
      rw [exec_ldstv_error hv] at h
      cases h
      exact ⟨_, exec_ldstv_error (s := { s with st := b, unset := _ }) hv, rfl⟩
  · refine ⟨_, exec_edit (g := { UnreadEdit.keep with st := fun _ => b, mark := fun _ => m }) h (fun _ _ _ => rfl)
      (fun x e => absurd ⟨x, e⟩ hi) (fun _ => rfl) fun _ _ => rfl, rfl⟩

/-- Settles O26: the edit of the stack alone, but for a call and a return, which see the live entries alone. -/
theorem deadStackEntriesAreUnobservable : Obligations.DeadStackEntriesAreUnobservable := by
  intro i s t k h hk
  by_cases hcall : ∃ nnn, i = .call nnn
  · obtain ⟨nnn, rfl⟩ := hcall
    obtain ⟨k', hexec, hagree⟩ := exec_call_stack h hk
    exact ⟨_, hexec, rfl, hagree⟩
  · by_cases hret : i = .ret
    · subst hret
      obtain ⟨hexec, hagree⟩ := exec_ret_stack h hk
      exact ⟨_, hexec, rfl, hagree⟩
    · have hst : t.stack = s.stack := by_contra fun hne => hcall (exec_stack_ne h hne)
      have hsp : t.sp = s.sp := by_contra fun hne => (exec_sp_ne h hne).elim hret hcall
      refine ⟨_, exec_edit (g := { UnreadEdit.keep with stack := fun _ => k }) h (fun _ _ _ => rfl)
        (fun _ _ => ⟨rfl, rfl⟩) (fun e => absurd e hret) (fun nnn e => absurd ⟨nnn, e⟩ hcall), rfl,
        fun j hj hlive => ?_⟩
      simp only [hst]
      exact hk j hj (hsp ▸ hlive)

end Sys2Proof.Machine
end

section
/-! PROOFS. The step (40_cycle.md): the gate, the fetch with its bound, the unimplemented word, the parked core, and the
FAULTED core under every transaction but a Reset. -/

namespace Sys2Proof.Machine

section Running
variable {s : State} (h : s.Running)
include h

theorem step_of_fetch_error {tr : Trap} (hw : s.fetch = .error tr) : step s = .next (s.takeFault none tr) := by
  rw [step_of_running h, hw]

theorem step_of_decode_error {w : Word} {e : DecodeError} (hw : s.fetch = .ok w) (hd : decodeWord w = .error e) :
    step s = .next s.advance := by
  simp only [step_of_running h, hw, hd]

theorem step_of_decode_ok {w : Word} {i : Instr} (hw : s.fetch = .ok w) (hd : decodeWord w = .ok i) :
    step s = exec i s := by
  simp only [step_of_running h, hw, hd]

end Running

theorem stepReport_of_decode_error {s : State} {w : Word} {e : DecodeError} (h : s.Running) (hw : s.fetch = .ok w)
    (hd : decodeWord w = .error e) : stepReport s = .unimplemented s.pc w := by
  obtain ⟨hf, hr⟩ := h
  simp only [stepReport, hf, hr, hw, hd]

/-- A fetch that would touch an address beyond memory (R82). -/
theorem fetch_beyond {s : State} (h : 4096 ≤ s.pc.toNat + 1) :
    s.fetch = .error ⟨.addressOutOfRange, some (BitVec.ofNat 16 (max s.pc.toNat 0x1000))⟩ := if_pos h

/-- The address of 40_cycle.md R82: PC, or 0x1000 where only the second byte is beyond memory. -/
theorem ofNat_max_pc (w : Word) : BitVec.ofNat 16 (max w.toNat 0x1000) = if 4096 ≤ w.toNat then w else 0x1000 := by
  split
  · rw [Nat.max_eq_left ‹_›, BitVec.ofNat_toNat, BitVec.setWidth_eq]
  · rw [Nat.max_eq_right (by omega)]; rfl

/-! ## The FAULTED core -/

/-- Without a Reset a transaction on a FAULTED core changes the latch or the run flag at most. -/
theorem apply_faulted {a : Transaction} {s : State} {r : FaultRecord} (h : s.fault = some r)
    (ha : ∀ image, a ≠ .reset image) :
    ∃ f k, a.apply s = { s with run := f, keys := k } := by
  have hact : ¬ s.active = true := by simp [State.active, h]
  cases a with
  | reset image => exact absurd rfl (ha image)
  | step b => exact ⟨s.run, s.keys, if_neg hact⟩
  | tick => exact ⟨s.run, s.keys, if_neg hact⟩
  | setKeys k => exact ⟨s.run, k, rfl⟩
  | setRun f => exact ⟨f, s.keys, rfl⟩
  | getRun | readFramebuffer | readSoundTimer => exact ⟨s.run, s.keys, rfl⟩

/-! ## The obligations -/

/-- Settles O6: the fetch gives the two bytes, the first the high one. -/
theorem stepRunsTheDecodedInstruction : Obligations.StepRunsTheDecodedInstruction := by
  intro s high low i hrun hpc hhigh hlow hd
  exact step_of_decode_ok hrun (State.fetch_eq_ok.2 ⟨hpc, high, low, hhigh, hlow, rfl⟩) hd

/-- Settles O7: the step is the fetch's advance. -/
theorem unimplementedWordOnlyAdvancesPc : Obligations.UnimplementedWordOnlyAdvancesPc :=
  fun _ _ hrun hw hd => ⟨step_of_decode_error hrun hw hd, stepReport_of_decode_error hrun hw hd⟩

/-- Settles O8: the bound's failure is the fault, its success reads the word. -/
theorem fetchFaultsExactlyBeyondMemory : Obligations.FetchFaultsExactlyBeyondMemory := by
  refine ⟨fun s hrun hpc => ?_, fun s high low hpc hhigh hlow => ?_⟩
  · rw [step_of_fetch_error hrun (fetch_beyond hpc), ofNat_max_pc]; rfl
  · exact State.fetch_eq_ok.2 ⟨hpc, high, low, hhigh, hlow, rfl⟩

/-- Settles O9: the two closed arms of the gate. -/
theorem faultedAndPausedCoresDoNotStep : Obligations.FaultedAndPausedCoresDoNotStep := by
  refine ⟨fun s r hf => ?_, fun s hf hp => ?_⟩
  · constructor
    · simp only [step, hf]
    · simp only [stepReport, hf]
  · constructor
    · simp only [step, hf, hp]
    · simp only [stepReport, hf, hp]

/-- Settles O11: the jump writes the PC that is there. -/
theorem parkedCoreIsAFixedPoint : Obligations.ParkedCoreIsAFixedPoint := by
  rintro s ⟨hrun, nnn, ⟨w, hw, hd⟩, hself⟩
  have hstep : step s = .next s := by
    rw [step_of_decode_ok hrun hw hd, exec_jp]
    exact congrArg (fun p => Host.Outcome.next { s with pc := p }) hself
  refine ⟨hstep, ?_⟩
  rw [stepReport_eq_reportOf hrun hw fun w' hw' => ⟨_, Except.ok.inj hw' ▸ hd⟩, hstep]
  simp only [reportOf, hrun.1]

/-- Settles O27, by induction on the transactions. -/
theorem faultedIsTerminalUntilReset : Obligations.FaultedIsTerminalUntilReset := by
  intro as
  induction as with
  | nil => intro s r _ _; rfl
  | cons a as ih =>
    intro s r hf hno
    obtain ⟨f, k, ha⟩ := apply_faulted hf fun image e => hno image (List.mem_cons.2 (.inl e.symm))
    have hrest := ih { s with run := f, keys := k } r hf fun image hm => hno image (List.mem_cons_of_mem a hm)
    rw [applyAll, ha]
    exact hrest

end Sys2Proof.Machine
end

section
/-! PROOFS. Logic, arithmetic, shifts and random (42_alu.md): the two orders of ALIAS_MODE as register files, an
equation per instruction, and the corner cases of VF read off them. -/

namespace Sys2Proof.Machine

/-! ## Bytes as numbers -/

theorem byte_sub_eq_ofNat_mod (a b : Byte) : a - b = BitVec.ofNat 8 ((256 + a.toNat - b.toNat) % 256) := by
  apply BitVec.eq_of_toNat_eq
  have hb : b.toNat < 256 := b.isLt
  have hsum : 2 ^ 8 - b.toNat + a.toNat = 256 + a.toNat - b.toNat := by omega
  rw [BitVec.toNat_sub, BitVec.toNat_ofNat, Nat.mod_mod, hsum]

theorem byte_shl_eq_ofNat_mod (b : Byte) : b <<< 1 = BitVec.ofNat 8 (2 * b.toNat % 256) := by
  apply BitVec.eq_of_toNat_eq
  rw [BitVec.toNat_shiftLeft, BitVec.toNat_ofNat, Nat.mod_mod, Nat.shiftLeft_eq, Nat.pow_one, Nat.mul_comm]

theorem byte_shr_eq_ofNat_div (b : Byte) : b >>> 1 = BitVec.ofNat 8 (b.toNat / 2) := by
  apply BitVec.eq_of_toNat_eq
  have hb : b.toNat < 256 := b.isLt
  rw [BitVec.toNat_ushiftRight, BitVec.toNat_ofNat, Nat.shiftRight_eq_div_pow, Nat.mod_eq_of_lt (by omega)]

theorem flagByte_highBit (b : Byte) : flagByte (highBit b) = if b.toNat ≥ 128 then 1 else 0 := by
  rw [← flagByte_decide, highBit, ← BitVec.msb_eq_getLsbD_last b, BitVec.msb_eq_decide]

theorem flagByte_lowBit (b : Byte) : flagByte (lowBit b) = BitVec.ofNat 8 (b.toNat % 2) := by
  rw [lowBit, BitVec.getLsbD, Nat.testBit_zero, flagByte_decide]
  rcases Nat.mod_two_eq_zero_or_one b.toNat with h | h <;> rw [h] <;> rfl

/-! ## Registers after a write of VF -/

theorem getElem_set_vf (v : Vector Byte 16) (f : Byte) (r : Reg) : (v.set 15 f)[r] = if r = 15 then f else v[r] := by
  by_cases h : r = 15
  · subst h; exact (Vector.getElem_set_self _).trans (if_pos rfl).symm
  · rw [if_neg h]; exact Vector.getElem_set_ne _ r.isLt (Fin.val_ne_of_ne (Ne.symm h))

/-- Both orders leave the same registers when the destination is not VF; when it is, the last write stands. -/
theorem set_set_vf (v : Vector Byte 16) (x : Reg) (f b : Byte) :
    (v.set x.val b x.isLt).set 15 f = if x = 15 then v.set 15 f else (v.set 15 f).set x.val b x.isLt := by
  by_cases h : x = 15
  · subst h; rw [if_pos rfl]; exact Vector.set_set _ _
  · rw [if_neg h, set_flag_comm h]

/-! ## AliasRefused -/

/-- The forms that ALIAS_MODE = fault refuses (R105). -/
abbrev State.Refuses (s : State) (x y : Reg) : Prop := s.cfg.aliasMode = .fault ∧ (x = 15 ∨ y = 15)

theorem checkAlias_refused {s : State} {x y : Reg} (h : s.Refuses x y) :
    s.checkAlias x y = .error ⟨.aliasRefused, none⟩ := if_pos h

theorem not_refuses_of_ne_fault {s : State} {x y : Reg} (h : s.cfg.aliasMode ≠ .fault) : ¬ s.Refuses x y :=
  fun h' => h h'.1

theorem not_refuses_of_ne_vf {s : State} {x y : Reg} (hx : x ≠ 15) (hy : y ≠ 15) : ¬ s.Refuses x y :=
  fun h => h.2.elim hx hy

/-- The five flag instructions check their operands first (R147). -/
theorem exec_refused {s : State} {x y : Reg} {i : Instr} (h : s.Refuses x y)
    (hi : i ∈ [Instr.add x y, Instr.sub x y, Instr.shl x y, Instr.subn x y, Instr.shr x y]) :
    exec i s = .next (s.faultedWith (some (encode i)) .aliasRefused 0x81 none) := by
  have hc := checkAlias_refused h
  simp only [List.mem_cons, List.not_mem_nil, or_false] at hi
  rcases hi with rfl | rfl | rfl | rfl | rfl <;> exact commit_bind_error hc

/-! ## The equations -/

section TwoOperands
variable {s : State} {x y : Reg} (hx : s.valuelessV x = false) (hy : s.valuelessV y = false)
include hx hy

theorem exec_or : exec (.or x y) s = .next (s.wrote x (s.v[x] ||| s.v[y])) :=
  commit_bind_ok (State.readV_ok hx) (commit_bind_ok (State.readV_ok hy) rfl)

theorem exec_and : exec (.and x y) s = .next (s.wrote x (s.v[x] &&& s.v[y])) :=
  commit_bind_ok (State.readV_ok hx) (commit_bind_ok (State.readV_ok hy) rfl)

theorem exec_xor : exec (.xor x y) s = .next (s.wrote x (s.v[x] ^^^ s.v[y])) :=
  commit_bind_ok (State.readV_ok hx) (commit_bind_ok (State.readV_ok hy) rfl)

theorem exec_add (h : ¬ s.Refuses x y) : exec (.add x y) s = .next (s.byAliasMode
    (addSequential x s.v[x] s.v[y] s.advance) (addFlagLast x s.v[x] s.v[y] s.advance)) :=
  commit_bind_ok (State.checkAlias_eq_ok.2 h)
    (commit_bind_ok (State.readV_ok hx) (commit_bind_ok (State.readV_ok hy) rfl))

theorem exec_sub (h : ¬ s.Refuses x y) : exec (.sub x y) s = .next (s.byAliasMode
    (subSequential x y s.v[x] s.v[y] s.advance) (subFlagLast x s.v[x] s.v[y] s.advance)) :=
  commit_bind_ok (State.checkAlias_eq_ok.2 h)
    (commit_bind_ok (State.readV_ok hx) (commit_bind_ok (State.readV_ok hy) rfl))

theorem exec_subn (h : ¬ s.Refuses x y) : exec (.subn x y) s = .next (s.byAliasMode
    (subnSequential x y s.v[x] s.v[y] s.advance) (subnFlagLast x s.v[x] s.v[y] s.advance)) :=
  commit_bind_ok (State.checkAlias_eq_ok.2 h)
    (commit_bind_ok (State.readV_ok hx) (commit_bind_ok (State.readV_ok hy) rfl))

end TwoOperands

section OneOperand
variable {s : State} {x y : Reg} (hy : s.valuelessV y = false) (h : ¬ s.Refuses x y)
include hy h

theorem exec_shl : exec (.shl x y) s = .next (s.byAliasMode (shlSequential x s.v[y] s.advance)
    (shlFlagLast x s.v[y] s.advance)) :=
  commit_bind_ok (State.checkAlias_eq_ok.2 h) (commit_bind_ok (State.readV_ok hy) rfl)

theorem exec_shr : exec (.shr x y) s = .next (s.byAliasMode (shrSequential x s.v[y] s.advance)
    (shrFlagLast x s.v[y] s.advance)) :=
  commit_bind_ok (State.checkAlias_eq_ok.2 h) (commit_bind_ok (State.readV_ok hy) rfl)

end OneOperand

/-! ## The two orders of a difference (R113, R115) -/

/-- What 8XY5 and 8XY7 leave, `op` their difference and `f` their flag: the flag first and the difference of what then
stands in V[X] and V[Y], or the difference of the operands first and then the flag. -/
def State.difference (s : State) (x y : Reg) (f : Byte) (op : Byte → Byte → Byte) : State :=
  s.byAliasMode
    (s.wroteFlagged x ((s.v.set 15 f).set x.val (op (s.v.set 15 f)[x] (s.v.set 15 f)[y]) x.isLt))
    (s.wroteFlagged x ((s.v.set x.val (op s.v[x] s.v[y]) x.isLt).set 15 f))

theorem byAliasMode_sub (s : State) (x y : Reg) :
    s.byAliasMode (subSequential x y s.v[x] s.v[y] s.advance) (subFlagLast x s.v[x] s.v[y] s.advance) =
      s.difference x y (flagByte (noBorrow s.v[x] s.v[y])) (fun a b => a - b) :=
  congrArg (s.byAliasMode _) (s.setV_setFlag x _ _)

theorem byAliasMode_subn (s : State) (x y : Reg) :
    s.byAliasMode (subnSequential x y s.v[x] s.v[y] s.advance) (subnFlagLast x s.v[x] s.v[y] s.advance) =
      s.difference x y (flagByte (noBorrow s.v[y] s.v[x])) (fun a b => b - a) :=
  congrArg (s.byAliasMode _) (s.setV_setFlag x _ _)

section Difference
variable {s : State} {x y : Reg} (f : Byte) (op : Byte → Byte → Byte)

theorem difference_of_ne_vf (hx : x ≠ 15) (hy : y ≠ 15) :
    s.difference x y f op = s.wroteFlagged x ((s.v.set 15 f).set x.val (op s.v[x] s.v[y]) x.isLt) := by
  rw [State.difference, getElem_set_vf, getElem_set_vf, if_neg hx, if_neg hy, set_flag_comm hx]
  exact (State.byAliasMode_cases _ _ _).elim id id

theorem difference_flagLast (hm : s.cfg.aliasMode = .flagLast) : s.difference x y f op = s.wroteFlagged x
    (if x = 15 then s.v.set 15 f else (s.v.set 15 f).set x.val (op s.v[x] s.v[y]) x.isLt) := by
  rw [State.difference, State.byAliasMode_flagLast hm, set_set_vf]

/-- Under `sequential` an operand that is VF is the new flag. -/
theorem difference_sequential (hm : s.cfg.aliasMode = .sequential) (h : x = 15 ∨ y = 15) (hop : ∀ a, op a a = 0) :
    s.difference x y f op = s.wroteFlagged x (if x = 15 then s.v.set 15 (if y = 15 then 0 else op f s.v[y])
      else (s.v.set 15 f).set x.val (op s.v[x] f) x.isLt) := by
  rw [State.difference, State.byAliasMode_sequential hm, getElem_set_vf, getElem_set_vf]
  by_cases hx : x = 15
  · subst hx
    rw [if_pos rfl, if_pos rfl]
    by_cases hy : y = 15
    · rw [if_pos hy, if_pos hy, hop]; exact congrArg _ (Vector.set_set _ _)
    · rw [if_neg hy, if_neg hy]; exact congrArg _ (Vector.set_set _ _)
  · rw [if_neg hx, if_neg hx, if_pos (h.resolve_left hx)]

/-- Every case of an instruction that leaves a difference: no operand is VF, or one is and ALIAS_MODE decides. -/
theorem exec_difference {i : Instr} {f : Byte} {op : Byte → Byte → Byte}
    (hi : i ∈ [Instr.add x y, Instr.sub x y, Instr.shl x y, Instr.subn x y, Instr.shr x y]) (hop : ∀ a, op a a = 0)
    (h : ¬ s.Refuses x y → exec i s = .next (s.difference x y f op)) :
    (x ≠ 15 → y ≠ 15 →
      exec i s = .next (s.wroteFlagged x ((s.v.set 15 f).set x.val (op s.v[x] s.v[y]) x.isLt))) ∧
    (s.cfg.aliasMode = .sequential → x = 15 ∨ y = 15 → exec i s = .next (s.wroteFlagged x
      (if x = 15 then s.v.set 15 (if y = 15 then 0 else op f s.v[y])
       else (s.v.set 15 f).set x.val (op s.v[x] f) x.isLt))) ∧
    (s.cfg.aliasMode = .flagLast → exec i s = .next (s.wroteFlagged x
      (if x = 15 then s.v.set 15 f else (s.v.set 15 f).set x.val (op s.v[x] s.v[y]) x.isLt))) ∧
    (s.cfg.aliasMode = .fault → x = 15 ∨ y = 15 →
      exec i s = .next (s.faultedWith (some (encode i)) .aliasRefused 0x81 none)) := by
  refine ⟨fun hx hy => ?_, fun hm halias => ?_, fun hm => ?_, fun hm halias => exec_refused ⟨hm, halias⟩ hi⟩
  · rw [h (not_refuses_of_ne_vf hx hy), difference_of_ne_vf f op hx hy]
  · rw [h (not_refuses_of_ne_fault (by rw [hm]; nofun)), difference_sequential f op hm halias hop]
  · rw [h (not_refuses_of_ne_fault (by rw [hm]; nofun)), difference_flagLast f op hm]

end Difference

/-! ## The two orders of a shift (R114, R116) -/

/-- What 8XY6 and 8XYE leave of the source `b`, `c` the bit shifted out and `op` the shift: under `sequential` the copy
of `b`, the flag and the shift of what then stands in V[X], else the result first and then the flag. -/
def State.shifted (s : State) (x : Reg) (b : Byte) (c : Bool) (op : Byte → Byte) : State :=
  let s₁ := (s.advance.setV x b).setFlag c
  s.byAliasMode (s₁.setV x (op s₁.v[x])) ((s.advance.setV x (op b)).setFlag c)

section Shift
variable {s : State} {x : Reg} (b : Byte) (c : Bool) (op : Byte → Byte)

/-- A copy that is written over leaves no trace. -/
theorem setV_setFlag_setV (r : Byte) : ((s.advance.setV x b).setFlag c).setV x r =
    s.wroteFlagged x (((s.v.set x.val b x.isLt).set 15 (flagByte c)).set x.val r x.isLt) := by
  rw [State.setV_setFlag]
  simp only [State.wroteFlagged, State.setV, Unset.clearV_clearV]

theorem shifted_of_ne_vf (hx : x ≠ 15) :
    s.shifted x b c op = s.wroteFlagged x ((s.v.set 15 (flagByte c)).set x.val (op b) x.isLt) := by
  have hv : ((s.advance.setV x b).setFlag c).v[x] = b :=
    (State.setFlag_v_of_ne hx).trans (Vector.getElem_set_self x.isLt)
  rw [State.shifted, hv, setV_setFlag_setV, State.setV_setFlag, set_flag_comm hx, set_flag_comm hx, Vector.set_set]
  exact (State.byAliasMode_cases _ _ _).elim id id

/-- With VF as destination the last write stands: the shifted flag, or the flag. -/
theorem shifted_vf (hm : s.cfg.aliasMode ≠ .fault) : s.shifted 15 b c op = s.wroteFlagged 15
    (s.v.set 15 (if s.cfg.aliasMode = .flagLast then flagByte c else op (flagByte c))) := by
  have hv : ((s.advance.setV 15 b).setFlag c).v[(15 : Reg)] = flagByte c := Vector.getElem_set_self (by decide)
  rw [State.shifted, hv, setV_setFlag_setV, State.setV_setFlag]
  cases h : s.cfg.aliasMode with
  | sequential =>
    rw [State.byAliasMode_sequential h, if_neg nofun]
    exact congrArg _ ((Vector.set_set _ _).trans (Vector.set_set _ _))
  | flagLast =>
    rw [State.byAliasMode_flagLast h, if_pos rfl]
    exact congrArg _ (Vector.set_set _ _)
  | fault => exact absurd h hm

end Shift

/-! ## The obligations -/

/-- Settles O30: the three results bit by bit. -/
theorem logicWritesTheBitwiseResult : Obligations.LogicWritesTheBitwiseResult :=
  fun _ _ _ hx hy => ⟨⟨_, exec_or hx hy, fun _ _ => BitVec.getLsbD_or⟩,
    ⟨_, exec_and hx hy, fun _ _ => BitVec.getLsbD_and⟩,
    ⟨_, exec_xor hx hy, fun _ _ => BitVec.getLsbD_xor⟩⟩

/-- Settles O31: a case per ALIAS_MODE, the carry and the sum read on natural numbers. -/
theorem addWritesSumAndCarry : Obligations.AddWritesSumAndCarry := by
  intro x y s hx hy
  have hflag : flagByte (carry s.v[x] s.v[y]) = if s.v[x].toNat + s.v[y].toNat > 255 then 1 else 0 := flagByte_decide _
  have hseq : addSequential x s.v[x] s.v[y] s.advance = _ := s.setFlag_setV x _ _
  have hlast : addFlagLast x s.v[x] s.v[y] s.advance = _ := s.setV_setFlag x _ _
  simp only [← byte_add_eq_ofNat_mod, ← hflag]
  split
  · rename_i hm
    rw [exec_add hx hy (not_refuses_of_ne_fault (by rw [hm]; nofun)), State.byAliasMode_sequential hm, hseq]
  · rename_i hm
    rw [exec_add hx hy (not_refuses_of_ne_fault (by rw [hm]; nofun)), State.byAliasMode_flagLast hm, hlast]
  · rename_i hm
    split
    · exact exec_refused ⟨hm, ‹_›⟩ (by simp)
    · rename_i hne
      rw [exec_add hx hy fun h => hne h.2, State.byAliasMode_fault hm, hseq]

/-- Settles O32: the flag and the difference read on natural numbers, a case per ALIAS_MODE where VF is an operand. -/
theorem subtractWritesDifferenceAndNoBorrow : Obligations.SubtractWritesDifferenceAndNoBorrow := by
  intro x y s hx hy
  have hflag : flagByte (noBorrow s.v[x] s.v[y]) = if s.v[x].toNat ≥ s.v[y].toNat then 1 else 0 := flagByte_decide _
  simp only [← byte_sub_eq_ofNat_mod, ← hflag]
  obtain ⟨hplain, hseq, hlast, hfault⟩ := exec_difference (i := .sub x y) (by simp) (fun a => BitVec.sub_self a)
    fun hr => (exec_sub hx hy hr).trans (congrArg _ (byAliasMode_sub s x y))
  refine ⟨hplain, fun halias => ?_⟩
  split
  · exact hseq ‹_› halias
  · exact hlast ‹_›
  · exact hfault ‹_› halias

/-- Settles O33: as for 8XY5, with the operands of the difference exchanged. -/
theorem reverseSubtractWritesDifferenceAndNoBorrow : Obligations.ReverseSubtractWritesDifferenceAndNoBorrow := by
  intro x y s hx hy
  have hflag : flagByte (noBorrow s.v[y] s.v[x]) = if s.v[y].toNat ≥ s.v[x].toNat then 1 else 0 := flagByte_decide _
  simp only [← byte_sub_eq_ofNat_mod, ← hflag]
  obtain ⟨hplain, hseq, hlast, hfault⟩ := exec_difference (i := .subn x y) (op := fun a b => b - a) (by simp)
    (fun a => BitVec.sub_self a) fun hr => (exec_subn hx hy hr).trans (congrArg _ (byAliasMode_subn s x y))
  refine ⟨hplain, fun halias => ?_⟩
  split
  · exact hseq ‹_› halias
  · exact hlast ‹_›
  · exact hfault ‹_› halias

/-- Settles O34: refused, VF as destination, or any other destination. -/
theorem shiftLeftTakesTheSourceFromVy : Obligations.ShiftLeftTakesTheSourceFromVy := by
  intro x y s hy
  simp only [← byte_shl_eq_ofNat_mod, ← flagByte_highBit]
  split
  · exact exec_refused ‹_› (by simp)
  · rename_i hr
    have he : exec (.shl x y) s = .next (s.shifted x s.v[y] (highBit s.v[y]) (· <<< 1)) := exec_shl hy hr
    rw [he]
    split
    · rename_i hx
      subst hx
      have htwice : flagByte (highBit s.v[y]) <<< 1 = if s.v[y].toNat ≥ 128 then 2 else 0 := by
        rw [flagByte_highBit]; split <;> rfl
      rw [shifted_vf _ _ _ fun hm => hr ⟨hm, .inl rfl⟩, htwice]
    · rw [shifted_of_ne_vf _ _ _ ‹_›]

/-- Settles O35: refused, VF as destination, or any other destination. -/
theorem shiftRightTakesTheSourceFromVy : Obligations.ShiftRightTakesTheSourceFromVy := by
  intro x y s hy
  simp only [← byte_shr_eq_ofNat_div, ← flagByte_lowBit]
  split
  · exact exec_refused ‹_› (by simp)
  · rename_i hr
    have he : exec (.shr x y) s = .next (s.shifted x s.v[y] (lowBit s.v[y]) (· >>> 1)) := exec_shr hy hr
    rw [he]
    split
    · rename_i hx
      subst hx
      have hzero : flagByte (lowBit s.v[y]) >>> 1 = 0 := by cases lowBit s.v[y] <;> rfl
      rw [shifted_vf _ _ _ fun hm => hr ⟨hm, .inl rfl⟩, hzero]
    · rw [shifted_of_ne_vf _ _ _ ‹_›]

/-- Settles O36: the check comes first, and by the inversion of `exec` nothing else raises that cause. -/
theorem aliasRefusedExactlyUnderFaultMode : Obligations.AliasRefusedExactlyUnderFaultMode := by
  refine ⟨fun x y s i hi hm hvf => exec_refused ⟨hm, hvf⟩ hi, fun i s t r hnone h hr hc => ?_⟩
  rcases exec_cases h with he | ⟨tr, hq, rfl⟩
  · exact absurd (hnone.symm.trans ((effect_fault he).symm.trans hr)) nofun
  · obtain rfl : s.recordOf (some (encode i)) tr = r := Option.some.inj hr
    have hc' : tr.cause = .aliasRefused := hc
    have hadm := hq.admitted
    rw [hc'] at hadm
    exact ⟨of_decide_eq_true hadm, hq.aliased hc'⟩

/-- Settles O37: the byte is read where the state latches it. -/
theorem randomWritesTheMaskedByte : Obligations.RandomWritesTheMaskedByte := fun _ _ _ _ => rfl

end Sys2Proof.Machine
end

section
/-! PROOFS. Nested calls (41_control_flow.md, 95_test_vectors.md E8 and E9), the index register and the memory transfers
(43_index_memory.md): an equation per instruction and outcome, and the obligations read off them. -/

namespace Sys2Proof.Machine

/-! ## Calls in a row -/

/-- A call below capacity does not touch the fault record, so the next instruction runs. -/
theorem execAll_call_cons {nnn : BitVec 12} {is : List Instr} {s t : State} (h : exec (.call nnn) s = .next t)
    (hf : t.fault = s.fault) : execAll (.call nnn :: is) s = execAll is t := by
  simp only [execAll, h, hf, if_true]

/-- Calls up to capacity push one entry each, without a fault. -/
theorem execAll_calls (targets : List (BitVec 12)) {s : State} (hf : s.fault = none)
    (hroom : s.sp.val + targets.length ≤ 12) :
    ∃ t, execAll (targets.map .call) s = .next t ∧ t.fault = none ∧ t.sp.val = s.sp.val + targets.length := by
  induction targets generalizing s with
  | nil => exact ⟨s, rfl, hf, rfl⟩
  | cons nnn targets ih =>
    rw [List.length_cons] at hroom
    have hcall := exec_call_of_lt nnn (s := s) (by omega)
    obtain ⟨t, ht, htf, htsp⟩ := ih (s := { s with
      stack := s.stack.set s.sp.val (s.pc + 2) (by omega), sp := ⟨s.sp.val + 1, by omega⟩, pc := nnn.setWidth 16 })
      hf (show s.sp.val + 1 + targets.length ≤ 12 by omega)
    refine ⟨t, ?_, htf, ?_⟩
    · rw [List.map_cons, execAll_call_cons hcall rfl, ht]
    · have : t.sp.val = s.sp.val + 1 + targets.length := htsp
      rw [List.length_cons]; omega

/-! ## The check of a transfer -/

section Transfer
variable {s : State} {d : Transfer} {n : Nat} (hi : s.valuelessI = false)
include hi

theorem transferBase_ok (hn : 1 ≤ n) (hr : s.i.toNat + n ≤ 4096)
    (hl : ¬ (d = .store ∧ s.cfg.lowWritePolicy = .fault ∧ s.i.toNat < 0x200)) : s.transferBase d n = .ok s.i.toNat :=
  (State.transferBase_eq_ok hn).2 ⟨hi, rfl, hr, hl⟩

theorem transferBase_beyond (hr : 4096 ≤ s.i.toNat + n - 1) :
    s.transferBase d n = .error ⟨.addressOutOfRange, some (BitVec.ofNat 16 (max s.i.toNat 0x1000))⟩ := by
  rw [State.transferBase, State.readI_ok hi, ok_bind, checkTransfer, if_pos hr, error_bind]

theorem transferBase_protected (hr : ¬ 4096 ≤ s.i.toNat + n - 1)
    (hl : s.cfg.lowWritePolicy = .fault ∧ s.i.toNat < 0x200) :
    s.transferBase .store n = .error ⟨.protectedWrite, some s.i⟩ := by
  rw [State.transferBase, State.readI_ok hi, ok_bind, checkTransfer, if_neg hr, if_pos ⟨rfl, hl⟩, error_bind,
    BitVec.ofNat_toNat, BitVec.setWidth_eq]

end Transfer

/-! ## FX1E -/

theorem exec_addidx {s : State} {x : Reg} (hi : s.valuelessI = false) (hx : s.valuelessV x = false) :
    exec (.addidx x) s = .next ((s.advance.setI (BitVec.ofNat 16 (s.i.toNat + s.v[x].toNat))).setIndexFlag
      (indexOverflow s.i s.v[x])) :=
  commit_bind_ok (State.readI_ok hi) (commit_bind_ok (State.readV_ok hx) rfl)

theorem word_ofNat_mod (n : Nat) : BitVec.ofNat 16 (n % 65536) = BitVec.ofNat 16 n :=
  BitVec.eq_of_toNat_eq (by simp only [BitVec.toNat_ofNat]; exact Nat.mod_mod n _)

/-! ## FX33 -/

theorem exec_ldb {s : State} {x : Reg} (hx : s.valuelessV x = false) (ht : s.transferBase .store 3 = .ok s.i.toNat) :
    exec (.ldb x) s = .next (s.advance.storeBytes s.i.toNat (decimalDigits s.v[x])) :=
  commit_bind_ok (State.readV_ok hx) (commit_bind_ok ht rfl)

theorem exec_ldb_error {s : State} {x : Reg} {tr : Trap} (hx : s.valuelessV x = false)
    (ht : s.transferBase .store 3 = .error tr) :
    exec (.ldb x) s = .next (s.takeFault (some (encode (.ldb x))) tr) :=
  commit_bind_ok (State.readV_ok hx) (commit_bind_error ht)

/-- The bytes after a store of three. -/
theorem State.byteAt_storeBytes_three {s : State} (hm : Memory.wf s.cfg.initPolicy.unlisted s.mem) (a : Nat)
    (h d u : Byte) (a' : Nat) : (s.advance.storeBytes a [h, d, u]).byteAt a' =
      if a' = a then some h else if a' = a + 1 then some d else if a' = a + 2 then some u else s.byteAt a' := by
  refine (State.byteAt_storeBytes (s := s.advance) hm a [h, d, u] a').trans ?_
  by_cases h0 : a' = a
  · subst h0; simp
  · by_cases h1 : a' = a + 1
    · subst h1; simp
    · by_cases h2 : a' = a + 2
      · subst h2; simp
      · rw [if_neg (by simp; omega), if_neg h0, if_neg h1, if_neg h2]; rfl

/-! ## FX55 and FX65 -/

theorem exec_stm {s : State} {x : Reg} (ht : s.transferBase .store (x.val + 1) = .ok s.i.toNat)
    (hv : ∀ r ≤ x, s.valuelessV r = false) :
    exec (.stm x) s = .next (s.advance.storeBytes s.i.toNat ((regsUpTo x).map (s.v[·]))) :=
  commit_bind_ok ht (commit_bind_ok (State.readVs_eq_ok.2 ⟨fun r hr => hv r ((mem_regsUpTo x r).1 hr), rfl⟩) rfl)

theorem exec_stm_error {s : State} {x : Reg} {tr : Trap} (ht : s.transferBase .store (x.val + 1) = .error tr) :
    exec (.stm x) s = .next (s.takeFault (some (encode (.stm x))) tr) := commit_bind_error ht

theorem exec_ldm {s : State} {x : Reg} {bs : List Byte} (ht : s.transferBase .load (x.val + 1) = .ok s.i.toNat)
    (hbs : s.loadBytes s.i.toNat (x.val + 1) = .ok bs) :
    exec (.ldm x) s = .next (s.advance.setVs (regsUpTo x) bs) :=
  commit_bind_ok ht (commit_bind_ok hbs rfl)

theorem exec_ldm_error {s : State} {x : Reg} {tr : Trap} (ht : s.transferBase .load (x.val + 1) = .error tr) :
    exec (.ldm x) s = .next (s.takeFault (some (encode (.ldm x))) tr) := commit_bind_error ht

theorem State.byteAt_congr {s u : State} (hm : u.mem = s.mem) (hc : u.cfg = s.cfg) (a : Nat) :
    u.byteAt a = s.byteAt a := by rw [State.byteAt, hm, hc, State.byteAt]

/-- The k-th byte that FX55 stores is V[k]. -/
theorem byteAt_stored {s : State} (hm : Memory.wf s.cfg.initPolicy.unlisted s.mem) {x r : Reg} (hr : r ≤ x) :
    (s.advance.storeBytes s.i.toNat ((regsUpTo x).map (s.v[·]))).byteAt (s.i.toNat + r.val) = some s.v[r] := by
  have hrx : r.val ≤ x.val := hr
  refine (State.byteAt_storeBytes (s := s.advance) hm _ _ _).trans ?_
  rw [if_pos (by simp; omega), Nat.add_sub_cancel_left, List.getElem?_map, regsUpTo_getElem? x r hr]
  rfl

/-- FX65 gives V[r] the r-th byte that was loaded. -/
theorem setVs_regsUpTo {s : State} {x r : Reg} {bs : List Byte} (hr : r ≤ x) (hl : r.val < bs.length) :
    (s.setVs (regsUpTo x) bs).v[r] = bs[r.val] :=
  State.setVs_v_of_getElem? (regsUpTo_nodup x) (regsUpTo_getElem? x r hr) (List.getElem?_eq_getElem hl)

/-- FX65 faults, or its check passed and it loaded the bytes at I. -/
theorem exec_ldm_cases {x : Reg} {s t : State} (h : exec (.ldm x) s = .next t) :
    (∃ tr, t = s.takeFault (some (encode (.ldm x))) tr) ∨
    ∃ bs, s.loadBytes s.i.toNat (x.val + 1) = .ok bs ∧ t = s.advance.setVs (regsUpTo x) bs := by
  rcases State.commit_cases h with hok | ⟨tr, -, rfl⟩
  · obtain ⟨a, ha, hrest⟩ := bind_eq_ok.1 hok
    obtain ⟨bs, hbs, ht⟩ := bind_eq_ok.1 hrest
    obtain ⟨-, rfl, -, -⟩ := (State.transferBase_eq_ok (Nat.le_add_left 1 _)).1 ha
    exact .inr ⟨bs, hbs, (Except.ok.inj ht).symm⟩
  · exact .inl ⟨tr, rfl⟩

/-! ## The obligations -/

/-- Settles O41: the return pops the entry that the call pushed. -/
theorem callThenReturnResumesAfterTheCall : Obligations.CallThenReturnResumesAfterTheCall := by
  intro nnn s t u hsp hcall hstack hspu
  rw [exec_call_of_lt nnn hsp] at hcall
  cases hcall
  have hspv : u.sp.val = s.sp.val + 1 := congrArg Fin.val hspu
  have hpred : u.sp.val - 1 = s.sp.val := by omega
  rw [exec_ret_of_ne_zero (by omega)]
  simp only [hstack, hpred, Vector.getElem_set_self]

/-- Settles O42, by induction on the calls. -/
theorem callBeyondTwelveOverflows : Obligations.CallBeyondTwelveOverflows := by
  intro targets s hf hroom
  obtain ⟨t, ht, htf, htsp⟩ := execAll_calls targets hf hroom
  exact ⟨t, ht, htf, htsp, fun hfull nnn => exec_call_full nnn (congrArg Fin.val hfull)⟩

/-- Settles O45: a case per FX1E_VF_MODE. -/
theorem addToIndexWrapsAndFlags : Obligations.AddToIndexWrapsAndFlags := by
  intro x s hi hx
  have hflag : flagByte (indexOverflow s.i s.v[x]) = if s.i.toNat + s.v[x].toNat > 0xFFF then 1 else 0 :=
    flagByte_decide _
  simp only [word_ofNat_mod, ← hflag]
  rw [exec_addidx hi hx]
  split
  · rw [State.setIndexFlag_set (by assumption)]; rfl
  · rw [State.setIndexFlag_unchanged (by assumption)]; rfl

/-- Settles O46: the bound, the low region, then the three digits. -/
theorem decimalStoreWritesThreeDigits : Obligations.DecimalStoreWritesThreeDigits := by
  intro x s hx hi hm
  split
  · exact exec_ldb_error hx (transferBase_beyond hi (by omega))
  · split
    · exact exec_ldb_error hx (transferBase_protected hi (by omega) ‹_›)
    · rename_i hr hl
      refine ⟨_, exec_ldb hx (transferBase_ok hi (by decide) (by omega) fun h => hl h.2), rfl, ?_⟩
      obtain ⟨h, d, u, hdig, hh, hd, hu, hsum⟩ := decimalDigits_value s.v[x]
      have hval : ∀ k ≤ 9, (BitVec.ofNat 8 k).toNat = k := fun k hk => Nat.mod_eq_of_lt (by omega)
      refine ⟨BitVec.ofNat 8 h, BitVec.ofNat 8 d, BitVec.ofNat 8 u, ?_, ?_, ?_, ?_, fun a => ?_⟩
      · rw [hval h (by omega)]; exact hh
      · rw [hval d hd]; exact hd
      · rw [hval u hu]; exact hu
      · rw [hval h (by omega), hval d hd, hval u hu]; exact hsum
      · rw [hdig]; exact State.byteAt_storeBytes_three hm _ _ _ _ a

/-- Settles O47: the bound, the low region, then the registers in their places. -/
theorem registerStoreWritesTheRange : Obligations.RegisterStoreWritesTheRange := by
  intro x s hi hm
  split
  · exact exec_stm_error (transferBase_beyond hi (by omega))
  · split
    · exact exec_stm_error (transferBase_protected hi (by omega) ‹_›)
    · rename_i hr hl
      intro hv
      refine ⟨_, exec_stm (transferBase_ok hi (by omega) (by omega) fun h => hl h.2) hv, rfl,
        fun r hrx => byteAt_stored hm hrx, fun a ha => ?_⟩
      exact State.byteAt_storeBytes_of_outside hm (by simp; omega)

/-- Settles O48: the bound, then the bytes in their registers. -/
theorem registerLoadReadsTheRange : Obligations.RegisterLoadReadsTheRange := by
  intro x s hi
  split
  · exact exec_ldm_error (transferBase_beyond hi (by omega))
  · rename_i hr
    intro hb
    obtain ⟨bs, hbs⟩ := State.loadBytes_ok (s := s) (a := s.i.toNat) (n := x.val + 1) (by omega)
      fun k hk => hb k (by omega)
    obtain ⟨hlen, hbyte⟩ := State.loadBytes_eq_ok hbs
    have hunset : ∀ r : Reg, (s.advance.setVs (regsUpTo x) bs).unset.v[r] =
        if r ∈ regsUpTo x then false else s.unset.v[r] := fun r => State.setVs_unset (by simp [hlen])
    refine ⟨_, exec_ldm (transferBase_ok hi (by omega) (by omega) nofun) hbs, State.setVs_frame _ _ _,
      fun r => ⟨fun hrx => ?_, fun hxr => ?_⟩⟩
    · have hk : r.val < bs.length := by have : r.val ≤ x.val := hrx; omega
      rw [setVs_regsUpTo hrx hk, hunset, if_pos ((mem_regsUpTo x r).2 hrx)]
      exact ⟨(hbyte r.val hk).2.symm, rfl⟩
    · have hmem : r ∉ regsUpTo x := fun h => absurd ((mem_regsUpTo x r).1 h) (Fin.not_le.2 hxr)
      rw [State.setVs_v_of_not_mem hmem, hunset, if_neg hmem]
      exact ⟨rfl, rfl⟩

/-- Settles O49: without a fault FX55 stored V[r] at I + r, and FX65 loads that byte into V[r]. -/
theorem storeThenLoadRestoresRegisters : Obligations.StoreThenLoadRestoresRegisters := by
  intro x s t u w hm hstore _ htf hmem hcfg hi _ hload hwf
  rcases exec_stm_cases hstore with ⟨tr, rfl⟩ | ⟨-, -, rfl⟩
  · cases htf
  · rcases exec_ldm_cases hload with ⟨tr, rfl⟩ | ⟨bs, hbs, rfl⟩
    · cases hwf
    · have hui : u.i = s.i := hi
      obtain ⟨hlen, hbyte⟩ := State.loadBytes_eq_ok hbs
      refine ⟨(State.setVs_i _ _ _).trans hui, fun r hr => ?_⟩
      have hk : r.val < bs.length := by have : r.val ≤ x.val := hr; omega
      have hstored := (State.byteAt_congr hmem hcfg _).trans (byteAt_stored hm hr)
      rw [← hui, (hbyte r.val hk).2] at hstored
      rw [setVs_regsUpTo hr hk]
      exact Option.some.inj hstored

end Sys2Proof.Machine
end

section
/-! PROOFS. The sprite draw (44_display.md R126 to R128): the state a draw leaves, its cells and its flag in the claims'
terms, and the two obligations on DXYN put together from them. -/

namespace Sys2Proof.Machine

/-! ## The state that a draw leaves -/

/-- `s` after DXYN has drawn the rows from the start point (x0, y0). -/
def State.drawn (s : State) (x0 y0 : Nat) (rows : List Byte) : State :=
  let c := Canvas.drawRows x0 y0 rows { fb := s.fb, hit := false }
  { s.advance with fb := c.fb }.setFlag c.hit

theorem exec_drw {s : State} {x y : Reg} {n : Nat} {rows : List Byte} (hx : s.valuelessV x = false)
    (hy : s.valuelessV y = false) (hrows : s.spriteRows n (s.v[y].toNat % 32) = .ok rows) :
    exec (.drw x y n) s = .next (s.drawn (s.v[x].toNat % 64) (s.v[y].toNat % 32) rows) :=
  commit_bind_ok (State.readV_ok hx) (commit_bind_ok (State.readV_ok hy) (commit_bind_ok hrows rfl))

theorem exec_drw_error {s : State} {x y : Reg} {n : Nat} {tr : Trap} (hx : s.valuelessV x = false)
    (hy : s.valuelessV y = false) (hrows : s.spriteRows n (s.v[y].toNat % 32) = .error tr) :
    exec (.drw x y n) s = .next (s.takeFault (some (encode (.drw x y n))) tr) :=
  commit_bind_ok (State.readV_ok hx) (commit_bind_ok (State.readV_ok hy) (commit_bind_error hrows))

/-- DXYN faults, or it read its rows and drew them. -/
theorem exec_drw_cases {s t : State} {x y : Reg} {n : Nat} (h : exec (.drw x y n) s = .next t) :
    (∃ tr, t = s.takeFault (some (encode (.drw x y n))) tr) ∨
    ∃ rows, s.spriteRows n (s.v[y].toNat % 32) = .ok rows ∧
      t = s.drawn (s.v[x].toNat % 64) (s.v[y].toNat % 32) rows := by
  rcases State.commit_cases h with hok | ⟨tr, -, rfl⟩
  · obtain ⟨a, ha, hok₁⟩ := bind_eq_ok.1 hok
    obtain ⟨b, hb, hok₂⟩ := bind_eq_ok.1 hok₁
    obtain ⟨rows, hrows, ht⟩ := bind_eq_ok.1 hok₂
    obtain ⟨-, rfl⟩ := State.readV_eq_ok.1 ha
    obtain ⟨-, rfl⟩ := State.readV_eq_ok.1 hb
    exact .inr ⟨rows, hrows, (Except.ok.inj ht).symm⟩
  · exact .inl ⟨tr, rfl⟩

/-- With no row nothing is drawn and VF is 0. -/
theorem drawn_nil (s : State) (x0 y0 : Nat) : s.drawn x0 y0 [] = s.wrote 15 0 := rfl

theorem flagByte_eq_zero_or_one (c : Bool) : flagByte c = 0 ∨ flagByte c = 1 := by
  cases c
  · exact .inl rfl
  · exact .inr rfl

theorem flagByte_eq_one {c : Bool} : flagByte c = 1 ↔ c = true := by cases c <;> decide

section Drawn
variable {s : State} {n x0 y0 : Nat} {rows : List Byte}

theorem drawn_vf : (s.drawn x0 y0 rows).v[(15 : Reg)] =
    flagByte (Canvas.drawRows x0 y0 rows { fb := s.fb, hit := false }).hit := Vector.getElem_set_self (by decide)

theorem drawn_frame : s.drawn x0 y0 rows =
    { s.wrote 15 (s.drawn x0 y0 rows).v[(15 : Reg)] with fb := (s.drawn x0 y0 rows).fb } := by
  rw [drawn_vf]; rfl

variable (hrows : s.spriteRows n y0 = .ok rows)
include hrows

/-- Every cell is XORed with the sprite's bit there. -/
theorem drawn_cell (cx : Fin 64) (cy : Fin 32) :
    ((s.drawn x0 y0 rows).fb[cy])[cx] = ((s.fb[cy])[cx] ^^ s.spritePixel n x0 y0 cx cy) := by
  rw [← State.spriteBit_eq_spritePixel hrows x0 cx cy]
  exact Canvas.drawRows_cell x0 y0 rows _ cx cy

/-- VF is 1 exactly when a 1-bit falls on a cell that was true. -/
theorem drawn_collision : (s.drawn x0 y0 rows).v[(15 : Reg)] = 1 ↔
    ∃ (cx : Fin 64) (cy : Fin 32), s.spritePixel n x0 y0 cx cy = true ∧ (s.fb[cy])[cx] = true := by
  rw [drawn_vf, flagByte_eq_one, Canvas.drawRows_hit]
  simp only [State.spriteBit_eq_spritePixel hrows, Bool.false_eq_true, false_or]

end Drawn

/-! ## The rows that a draw reads -/

theorem spriteRows_beyond {s : State} {n y0 : Nat} (hi : s.valuelessI = false) (hn : 1 ≤ n)
    (hr : 4096 ≤ s.i.toNat + n - 1) :
    s.spriteRows n y0 = .error ⟨.addressOutOfRange, some (BitVec.ofNat 16 (max s.i.toNat 0x1000))⟩ := by
  rw [State.spriteRows, if_neg (by omega), transferBase_beyond hi hr, error_bind]

/-- A sprite in range reads its visible rows (20_memory.md R52). -/
theorem spriteRows_in_range {s : State} {n y0 : Nat} (hi : s.valuelessI = false) (hn : 1 ≤ n)
    (hr : s.i.toNat + n ≤ 4096) : s.spriteRows n y0 = s.loadBytes s.i.toNat (visibleRows y0 n) := by
  rw [State.spriteRows, if_neg (by omega), transferBase_ok (d := .load) hi hn hr nofun, ok_bind]

theorem spritePixel_congr {s u : State} (hi : u.i = s.i) (hb : ∀ a, u.byteAt a = s.byteAt a) (n x0 y0 : Nat)
    (cx : Fin 64) (cy : Fin 32) : u.spritePixel n x0 y0 cx cy = s.spritePixel n x0 y0 cx cy := by
  simp only [State.spritePixel, hi, hb]

theorem framebuffer_ext {f g : Framebuffer} (h : ∀ (cx : Fin 64) (cy : Fin 32), (f[cy])[cx] = (g[cy])[cx]) : f = g :=
  Vector.ext fun y hy => Vector.ext fun x hx => h ⟨x, hx⟩ ⟨y, hy⟩

/-! ## The obligations -/

/-- Settles O51: no row, a sprite beyond memory, or the drawn state with its cells, flag and frame. -/
theorem drawXorsTheSpriteAndFlagsCollision : Obligations.DrawXorsTheSpriteAndFlagsCollision := by
  intro x y n s hx hy x0 y0
  refine ⟨fun hn => ?_, fun hn hi => ?_⟩
  · subst hn
    rw [exec_drw hx hy (State.spriteRows_zero s _), drawn_nil]
  · split
    · exact exec_drw_error hx hy (spriteRows_beyond hi hn ‹_›)
    · rename_i hr
      intro hb
      have hin := spriteRows_in_range (y0 := y0) hi hn (by omega)
      have hvis : visibleRows y0 n = min n (32 - y0) := rfl
      obtain ⟨rows, hrows⟩ := State.loadBytes_ok (s := s) (a := s.i.toNat) (n := visibleRows y0 n) (by omega)
        fun k hk => hb k (by omega) (by omega)
      rw [← hin] at hrows
      refine ⟨_, exec_drw hx hy hrows, drawn_cell hrows, drawn_collision hrows, ?_, drawn_frame⟩
      rw [drawn_vf]
      exact flagByte_eq_zero_or_one _

/-- Settles O52: the second draw XORs the same bits, and collides where the first made a cell true. -/
theorem drawingTwiceRestoresTheScreen : Obligations.DrawingTwiceRestoresTheScreen := by
  intro x y x' y' n s t u w _ _ hfirst htf hsecond hwf hfb hi hb hx0 hy0
  rcases exec_drw_cases hfirst with ⟨tr, rfl⟩ | ⟨rows, hrows, rfl⟩
  · cases htf
  rcases exec_drw_cases hsecond with ⟨tr, rfl⟩ | ⟨rows', hrows', rfl⟩
  · cases hwf
  rw [hy0] at hrows'
  have hcell : ∀ (cx : Fin 64) (cy : Fin 32), (u.fb[cy])[cx] =
      ((s.fb[cy])[cx] ^^ s.spritePixel n (s.v[x].toNat % 64) (s.v[y].toNat % 32) cx cy) := by
    intro cx cy
    rw [hfb]; exact drawn_cell hrows cx cy
  rw [hx0, hy0]
  refine ⟨framebuffer_ext fun cx cy => ?_, ?_⟩
  · rw [drawn_cell hrows', spritePixel_congr hi hb, hcell, Bool.xor_assoc, Bool.xor_self, Bool.xor_false]
  · rw [drawn_collision hrows']
    refine exists_congr fun cx => exists_congr fun cy => ?_
    rw [spritePixel_congr hi hb, hcell]
    refine and_congr_right fun hp => ?_
    rw [hp, Bool.xor_true, Bool.not_eq_true']

end Sys2Proof.Machine
end

section
/-! PROOFS. The keypad and the timers (45_keypad_timers.md): the key a skip asks for, the lowest pressed key, the timer
copies, and n ticks by induction. -/

namespace Sys2Proof.Machine

/-! ## Keys -/

/-- The key that V[X] names: itself up to 0xF, its low four bits above where the policy masks. -/
theorem keyOf_ok {s : State} {x k : Reg} (hx : s.valuelessV x = false) (hk : k.val = s.v[x].toNat % 16)
    (h : ¬ (s.v[x].toNat > 15 ∧ s.cfg.keyIndexPolicy = .fault)) : s.keyOf x = .ok s.keys[k] := by
  rw [State.keyOf, State.readV_ok hx, ok_bind]
  by_cases hv : s.v[x].toNat < 16
  · have hkv : s.v[x].toNat = k.val := by omega
    rw [keyPressed_ok _ _ hv]
    exact congrArg Except.ok (getElem_congr_idx hkv)
  · have hp : s.cfg.keyIndexPolicy = .mask := by
      cases hp : s.cfg.keyIndexPolicy with
      | mask => rfl
      | fault => exact absurd ⟨by omega, hp⟩ h
    rw [hp, keyPressed_mask _ (by omega)]
    exact congrArg Except.ok (getElem_congr_idx hk.symm)

theorem keyOf_error {s : State} {x : Reg} (hx : s.valuelessV x = false) (hv : s.v[x].toNat > 15)
    (hp : s.cfg.keyIndexPolicy = .fault) :
    s.keyOf x = .error ⟨.keyIndexOutOfRange, some (BitVec.ofNat 16 s.v[x].toNat)⟩ := by
  rw [State.keyOf, State.readV_ok hx, ok_bind, hp, keyPressed_fault _ (by omega), BitVec.ofNat_toNat]

theorem exec_skp {s : State} {x k : Reg} (h : s.keyOf x = .ok s.keys[k]) :
    exec (.skp x) s = .next { s with pc := if s.keys[k] = true then s.pc + 4 else s.pc + 2 } := by
  rw [← State.advance_skipIf, Bool.decide_eq_true]
  exact commit_bind_ok h rfl

theorem exec_sknp {s : State} {x k : Reg} (h : s.keyOf x = .ok s.keys[k]) :
    exec (.sknp x) s = .next { s with pc := if s.keys[k] = true then s.pc + 2 else s.pc + 4 } := by
  rw [← ite_not, ← State.advance_skipIf, decide_not, Bool.decide_eq_true]
  exact commit_bind_ok h rfl

theorem lowestPressed_unique {keys : Keypad} {k : Reg} (hk : keys[k] = true)
    (hlow : ∀ j : Reg, j < k → keys[j] = false) : lowestPressed keys = some k := by
  cases h : lowestPressed keys with
  | none => exact absurd (hk.symm.trans (lowestPressed_eq_none.1 h k)) nofun
  | some l =>
    obtain ⟨hl, hlowl⟩ := lowestPressed_eq_some h
    rcases lt_trichotomy l k with hlt | heq | hgt
    · exact absurd (hl.symm.trans (hlow l hlt)) nofun
    · rw [heq]
    · exact absurd (hk.symm.trans (hlowl k hgt)) nofun

theorem advance_rewind (s : State) : s.advance.rewind = s :=
  congrArg (State.setPc s) (BitVec.add_sub_cancel s.pc 2)

/-! ## Timers -/

theorem exec_ldvdt {s : State} {x : Reg} (h : s.valuelessDt = false) : exec (.ldvdt x) s = .next (s.wrote x s.dt) :=
  commit_bind_ok (State.readDt_ok h) rfl

theorem exec_lddtv {s : State} {x : Reg} (h : s.valuelessV x = false) :
    exec (.lddtv x) s = .next (s.advance.setDt s.v[x]) := commit_bind_ok (State.readV_ok h) rfl

theorem countDown_toNat (b : Byte) : (countDown b).toNat = b.toNat - 1 := by
  unfold countDown
  split
  · rename_i h; rw [h]; rfl
  · rename_i h
    have hb : 1 ≤ b.toNat := Nat.one_le_iff_ne_zero.2 fun h0 => h (BitVec.eq_of_toNat_eq h0)
    exact BitVec.toNat_sub_of_le hb

theorem active_iff (s : State) : s.active = true ↔ s.Running := by
  simp only [State.active, Bool.and_eq_true, decide_eq_true_eq]

theorem tick_of_running {s : State} (h : s.Running) :
    s.tick = { s with dt := countDown s.dt, st := countDown s.st } := if_pos ((active_iff s).2 h)

/-- n ticks take n off each timer, down to 0, and change nothing else. -/
theorem applyAll_ticks (n : Nat) {s : State} (h : s.Running) :
    ∃ d e : Byte, applyAll (List.replicate n .tick) s = { s with dt := d, st := e } ∧
      d.toNat = s.dt.toNat - n ∧ e.toNat = s.st.toNat - n := by
  induction n generalizing s with
  | zero => exact ⟨s.dt, s.st, rfl, rfl, rfl⟩
  | succ n ih =>
    obtain ⟨d, e, ht, hd, he⟩ := ih (s := { s with dt := countDown s.dt, st := countDown s.st }) h
    refine ⟨d, e, ?_, ?_, ?_⟩
    · rw [List.replicate_succ, applyAll, Transaction.apply, tick_of_running h]; exact ht
    · rw [hd, countDown_toNat]; omega
    · rw [he, countDown_toNat]; omega

theorem tickTone_of_running {s : State} (h : s.Running) (hst : s.valuelessSt = false) :
    s.tickTone = some (decide (s.st = 1)) := by
  simp only [State.tickTone, (active_iff s).2 h, hst, if_true, Bool.false_eq_true, if_false]

/-! ## The obligations -/

/-- Settles O53: an index refused by the policy, or the key it names. -/
theorem keySkipsFollowTheLatch : Obligations.KeySkipsFollowTheLatch := by
  intro x s hx
  split
  · rename_i h
    obtain ⟨hv, hp⟩ := h
    exact ⟨commit_bind_error (keyOf_error hx hv hp), commit_bind_error (keyOf_error hx hv hp)⟩
  · rename_i h
    intro k hk
    exact ⟨exec_skp (keyOf_ok hx hk h), exec_sknp (keyOf_ok hx hk h)⟩

/-- Settles O54: no key steps back to the word, the lowest pressed key is written. -/
theorem waitForKeyTakesTheLowestPressed : Obligations.WaitForKeyTakesTheLowestPressed := by
  refine fun x s => ⟨fun hnone => ?_, fun k hk hlow => ?_⟩
  · rw [exec_ldk_none (lowestPressed_eq_none.2 hnone), advance_rewind]
  · rw [exec_ldk_some (lowestPressed_unique hk hlow), State.advance_setV]

/-- Settles O55: the three words by their layout, the three effects by their equations. -/
theorem timerInstructionsCopyTheirRegister : Obligations.TimerInstructionsCopyTheirRegister :=
  fun x => ⟨encodeXNN_eq_fixed_or_reg 0xF#4 x 0x07#8, encodeXNN_eq_fixed_or_reg 0xF#4 x 0x15#8,
    encodeXNN_eq_fixed_or_reg 0xF#4 x 0x18#8,
    fun _ => ⟨exec_ldvdt, fun hx => ⟨exec_lddtv hx, exec_ldstv_ok (State.readV_ok hx)⟩⟩⟩

/-- Settles O56: n ticks by induction; the next one sounds when ST has come down to 1. -/
theorem ticksCountDownToZeroAndToneOnce : Obligations.TicksCountDownToZeroAndToneOnce := by
  refine ⟨fun n s hrun => ?_, fun s hno => ?_⟩
  · obtain ⟨d, e, ht, hd, he⟩ := applyAll_ticks n hrun
    rw [ht]
    refine ⟨hd, he, rfl, fun hst => ?_⟩
    have htone : State.tickTone { s with dt := d, st := e } = some (decide (e = 1)) := tickTone_of_running hrun hst
    have hone : e = 1 ↔ e.toNat = 1 := ⟨fun h => h ▸ rfl, fun h => BitVec.eq_of_toNat_eq h⟩
    rw [Transaction.response, htone]
    simp only [Response.tone.injEq, Option.some.injEq, decide_eq_true_eq, hone]
    omega
  · have hact : ¬ s.active = true := fun h => hno ((active_iff s).1 h)
    exact ⟨if_neg hact, congrArg Response.tone (if_neg hact)⟩

end Sys2Proof.Machine
end

section
/-! PROOFS. Reset (70_reset_and_hazards.md R162, R163): the memory it loads, the marks it sets, and a rejected image. -/

namespace Sys2Proof.Machine

theorem resetWith_of_le {s : State} {image : List Byte} (h : image.length ≤ maxImage) :
    s.resetWith image =
      ({ State.initial s.cfg with rand := s.rand, draws := s.draws } : State).storeBytes 0x200 image := if_pos h

theorem resetWith_of_gt {s : State} {image : List Byte} (h : ¬ image.length ≤ maxImage) :
    s.resetWith image = { State.initial s.cfg with rand := s.rand, draws := s.draws,
                                                   fault := some (loadRejectedRecord image.length) } := if_neg h

/-- The memory of an empty image: the font at 0x050, and no other address is listed. -/
theorem initial_read (cfg : Config) (a : Nat) : (State.initial cfg).mem.read cfg.initPolicy.unlisted a =
    if h : 0x050 ≤ a ∧ a < 0x0A0 then some (cfg.font[a - 0x050]'(by omega)) else cfg.initPolicy.unlisted := by
  refine (Memory.read_writeBytes List.Pairwise.nil 0x050 cfg.font.toList a).trans ?_
  rw [Vector.length_toList]
  split
  · rename_i h
    rw [List.getElem?_eq_getElem (by rw [Vector.length_toList]; omega), Vector.getElem_toList]
  · rfl

/-- Registers hold no value after a reset exactly under INIT_POLICY = unspecified. -/
theorem unspecified_and_self (p : InitPolicy) :
    (decide (p = .unspecified) && decide (p = .unspecified)) = true ↔ p = .unspecified := by
  rw [Bool.and_self, decide_eq_true_eq]

/-! ## The obligations -/

/-- Settles O57: the registers are those of the initial state, memory is the image over the font. -/
theorem resetLoadsFontAndImage : Obligations.ResetLoadsFontAndImage := by
  intro image s hlen
  have hreset := resetWith_of_le (s := s) hlen
  have hmark := unspecified_and_self s.cfg.initPolicy
  have hwf := (initial_inv s.cfg).memory
  rw [Transaction.apply, hreset]
  refine ⟨rfl, rfl, rfl, rfl, rfl, rfl, rfl, rfl, fun r => ⟨?_, ?_, ?_⟩, hmark, hmark, hmark, fun x y => ?_,
    fun j hj => ?_, fun a => ?_⟩
  · exact Vector.getElem_replicate r.isLt
  · exact Vector.getElem_replicate r.isLt
  · show (decide _ && (Vector.replicate 16 (decide (s.cfg.initPolicy = .unspecified)))[r]) = true ↔ _
    rw [Fin.getElem_fin, Vector.getElem_replicate]
    exact hmark
  · exact blankFramebuffer_cell x y
  · exact Vector.getElem_replicate hj
  · exact (Memory.read_writeBytes hwf.1 0x200 image a).trans (by rw [← initial_read]; rfl)

/-- Settles O58: the rejected image leaves the state of the empty one but for its record. -/
theorem resetRejectsAnOverlongImage : Obligations.ResetRejectsAnOverlongImage := by
  intro image s hlen
  have hlong : ¬ image.length ≤ maxImage := Nat.not_le.2 hlen
  rw [Transaction.apply, Transaction.apply, resetWith_of_gt hlong, resetWith_of_le (Nat.zero_le _)]
  rfl

end Sys2Proof.Machine
end

section
/-! PROOFS. Reads of what holds no value (60_exceptions.md R148, R149; 10_state.md R33): a register, or the first byte
of a fetch, an FX65 or a DXYN, stops the instruction with nothing committed. -/

namespace Sys2Proof.Machine

/-! ## Registers -/

/-- The read met a register with no value. -/
def Unread {α : Type} (e : Except Trap α) : Prop := e = .error ⟨.uninitialisedRead, none⟩

section Unread
variable {α β : Type} {s : State}

theorem Unread.bind {x : Except Trap α} {f : α → Except Trap β} (h : Unread x) : Unread (x >>= f) := by
  rw [Unread, h]; rfl

/-- A later read meets the register, and an earlier one can only fail in the same way. -/
theorem Unread.bind_right {x : Except Trap α} {f : α → Except Trap β} (hx : ∀ tr, x = .error tr → Unread x)
    (hf : ∀ a, x = .ok a → Unread (f a)) : Unread (x >>= f) := by
  cases x with
  | ok a => exact hf a rfl
  | error tr => exact (hx tr rfl).bind

theorem unread_readV {x : Reg} (h : s.valuelessV x = true) : Unread (s.readV x) := if_pos h

theorem unread_readI (h : s.valuelessI = true) : Unread s.readI := if_pos h

theorem unread_readDt (h : s.valuelessDt = true) : Unread s.readDt := if_pos h

theorem unread_of_readV_error (x : Reg) (tr : Trap) (h : s.readV x = .error tr) : Unread (s.readV x) := by
  rw [Unread, h, (State.readV_eq_error h).1]

theorem unread_of_readI_error (tr : Trap) (h : s.readI = .error tr) : Unread s.readI := by
  rw [Unread, h, (State.readI_eq_error h).1]

theorem unread_transferBase {d : Transfer} {n : Nat} (h : s.valuelessI = true) : Unread (s.transferBase d n) :=
  (unread_readI h).bind

theorem unread_spriteRows {n y0 : Nat} (h : s.valuelessI = true) (hn : 1 ≤ n) : Unread (s.spriteRows n y0) := by
  rw [State.spriteRows, if_neg (by omega)]
  exact (unread_transferBase h).bind

theorem unread_readVs {xs : List Reg} {r : Reg} (hr : r ∈ xs) (h : s.valuelessV r = true) : Unread (s.readVs xs) := by
  cases he : s.readVs xs with
  | ok bs => exact absurd (((State.readVs_eq_ok.1 he).1 r hr).symm.trans h) nofun
  | error tr => rw [(State.readVs_eq_error he).1]; rfl

theorem commit_unread {i : Instr} {e : Except Trap State} (h : Unread e) :
    s.commit i e = .next (s.faultedWith (some (encode i)) .uninitialisedRead 0x80 none) := by
  rw [h]; rfl

end Unread

section ValuelessV
variable {x y : Reg} {s : State} (h : s.valuelessV x = true)
include h

theorem commit_readV_first {i : Instr} {f : Byte → Except Trap State} : s.commit i (s.readV x >>= f) =
    .next (s.faultedWith (some (encode i)) .uninitialisedRead 0x80 none) :=
  commit_unread (unread_readV h).bind

theorem commit_readV_second {i : Instr} {f : Byte → Byte → Except Trap State} :
    s.commit i (s.readV y >>= fun b => s.readV x >>= f b) =
      .next (s.faultedWith (some (encode i)) .uninitialisedRead 0x80 none) :=
  commit_unread (.bind_right (unread_of_readV_error y) fun _ _ => (unread_readV h).bind)

theorem commit_keyOf {i : Instr} {f : Bool → Except Trap State} : s.commit i (s.keyOf x >>= f) =
    .next (s.faultedWith (some (encode i)) .uninitialisedRead 0x80 none) :=
  commit_unread (unread_readV h).bind.bind

/-- Whichever operand comes first, V[X] is read before any effect. -/
theorem exec_valuelessV (nn : Byte) (n : Nat) :
    ∀ i ∈ [Instr.sei x nn, .snei x nn, .se x y, .se y x, .sne x y, .sne y x, .addi x nn, .ld y x, .or x y, .or y x,
      .and x y, .and y x, .xor x y, .xor y x, .skp x, .sknp x, .lddtv x, .ldstv x, .addidx x, .ldf x, .ldb x,
      .drw x y n, .drw y x n], exec i s = .next (s.faultedWith (some (encode i)) .uninitialisedRead 0x80 none) := by
  have hfirst {i f} := commit_readV_first h (i := i) (f := f)
  have hsecond {i f} := commit_readV_second h (y := y) (i := i) (f := f)
  have haddidx : exec (.addidx x) s = _ :=
    commit_unread (.bind_right unread_of_readI_error fun _ _ => (unread_readV h).bind)
  simp only [List.forall_mem_cons, List.not_mem_nil, false_imp_iff, implies_true, and_true]
  exact ⟨hfirst, hfirst, hfirst, hsecond, hfirst, hsecond, hfirst, hfirst, hfirst, hsecond, hfirst, hsecond, hfirst,
    hsecond, commit_keyOf h, commit_keyOf h, hfirst, hfirst, haddidx, hfirst, hfirst, hfirst, hsecond⟩

/-- The flag instructions check their operands for VF first and then read. -/
theorem exec_flag_valuelessV (hr : ¬ s.Refuses x y) :
    ∀ i ∈ [Instr.add x y, .add y x, .sub x y, .sub y x, .subn x y, .subn y x, .shl y x, .shr y x],
      exec i s = .next (s.faultedWith (some (encode i)) .uninitialisedRead 0x80 none) := by
  have hxy : s.checkAlias x y = .ok () := State.checkAlias_eq_ok.2 hr
  have hyx : s.checkAlias y x = .ok () := State.checkAlias_eq_ok.2 fun h' => hr ⟨h'.1, h'.2.symm⟩
  have hfirst {i f} := commit_readV_first h (i := i) (f := f)
  have hsecond {i f} := commit_readV_second h (y := y) (i := i) (f := f)
  simp only [List.forall_mem_cons, List.not_mem_nil, false_imp_iff, implies_true, and_true]
  exact ⟨commit_bind_ok hxy hfirst, commit_bind_ok hyx hsecond, commit_bind_ok hxy hfirst, commit_bind_ok hyx hsecond,
    commit_bind_ok hxy hfirst, commit_bind_ok hyx hsecond, commit_bind_ok hyx hfirst, commit_bind_ok hyx hfirst⟩

end ValuelessV

/-- What reads I reads it before any effect, after V[X] and V[Y] at most. -/
theorem exec_valuelessI {x y : Reg} {n : Nat} {s : State} (h : s.valuelessI = true) (hn : 1 ≤ n) :
    ∀ i ∈ [Instr.addidx x, .ldb x, .stm x, .ldm x, .drw x y n],
      exec i s = .next (s.faultedWith (some (encode i)) .uninitialisedRead 0x80 none) := by
  simp only [List.forall_mem_cons, List.not_mem_nil, false_imp_iff, implies_true, and_true]
  refine ⟨commit_unread (unread_readI h).bind, ?_, commit_unread (unread_transferBase h).bind,
    commit_unread (unread_transferBase h).bind, ?_⟩
  · exact commit_unread (.bind_right (unread_of_readV_error x) fun _ _ => (unread_transferBase h).bind)
  · exact commit_unread (.bind_right (unread_of_readV_error x) fun _ _ =>
      .bind_right (unread_of_readV_error y) fun _ _ => (unread_spriteRows h hn).bind)

/-! ## Bytes -/

theorem recordedByteAddr_eq (p : UninitialisedAddr) (a : Nat) :
    recordedByteAddr p a = if p = .memoryAddress then some (BitVec.ofNat 16 a) else none := by cases p <;> rfl

section Bytes
variable {s : State}

theorem loadByte_ok {a : Nat} (ha : a < 4096) (h : s.byteAt a ≠ none) : ∃ b, s.loadByte a = .ok b := by
  obtain ⟨b, hb⟩ := Option.ne_none_iff_exists'.1 h
  exact ⟨b, State.loadByte_eq_ok.2 ⟨ha, hb⟩⟩

theorem loadByte_valueless {a : Nat} (ha : a < 4096) (h : s.byteAt a = none) :
    s.loadByte a = .error ⟨.uninitialisedRead, recordedByteAddr s.cfg.uninitialisedAddr a⟩ := by
  rw [State.loadByte, if_neg (by omega), h]

/-- A load stops at its first byte with no value. -/
theorem loadBytes_valueless {a n k : Nat} (hk : k < n) (hr : a + k < 4096) (h : s.byteAt (a + k) = none)
    (hbefore : ∀ j < k, s.byteAt (a + j) ≠ none) :
    s.loadBytes a n = .error ⟨.uninitialisedRead, recordedByteAddr s.cfg.uninitialisedAddr (a + k)⟩ := by
  induction k generalizing a n with
  | zero =>
    obtain ⟨n, rfl⟩ := Nat.exists_eq_add_one_of_ne_zero (Nat.ne_of_gt hk)
    rw [State.loadBytes, loadByte_valueless (by omega) (Nat.add_zero a ▸ h), error_bind, Nat.add_zero]
  | succ k ih =>
    obtain ⟨n, rfl⟩ := Nat.exists_eq_add_one_of_ne_zero (Nat.ne_of_gt (Nat.zero_lt_of_lt hk))
    obtain ⟨b, hb⟩ := loadByte_ok (s := s) (a := a) (by omega) (hbefore 0 (by omega))
    have hshift : ∀ j, a + (j + 1) = a + 1 + j := fun j => by omega
    rw [hshift k] at h hr ⊢
    rw [State.loadBytes, hb, ok_bind,
      ih (by omega) hr h fun j hj => hshift j ▸ hbefore (j + 1) (by omega), error_bind]

theorem fetch_valueless {a : Nat} (hpc : s.pc.toNat + 1 < 4096) (h : s.byteAt a = none)
    (ha : a = s.pc.toNat ∨ (a = s.pc.toNat + 1 ∧ s.byteAt s.pc.toNat ≠ none)) :
    s.fetch = .error ⟨.uninitialisedRead, recordedByteAddr s.cfg.uninitialisedAddr a⟩ := by
  rw [State.fetch, if_neg (by omega)]
  rcases ha with rfl | ⟨rfl, hhigh⟩
  · rw [loadByte_valueless (by omega) h, error_bind]
  · obtain ⟨b, hb⟩ := loadByte_ok (s := s) (by omega) hhigh
    rw [hb, ok_bind, loadByte_valueless hpc h, error_bind]

end Bytes

/-! ## The obligations -/

/-- Settles O59: each reader stops at the register, and ReadSoundTimer answers the fault. -/
theorem readingAValuelessRegisterFaults : Obligations.ReadingAValuelessRegisterFaults := by
  refine ⟨fun x y nn n s i h hi => exec_valuelessV h nn n i hi, fun x y s i h hr hi => exec_flag_valuelessV h hr i hi,
    fun x y n s i h hn hi => exec_valuelessI h hn i hi, fun x r s hi hrange hlow hr h => ?_, fun x s h => ?_,
    fun s => ?_⟩
  · have ht : s.transferBase .store (x.val + 1) = .ok s.i.toNat :=
      transferBase_ok hi (by omega) (by omega) fun h' => hlow h'.2
    exact commit_bind_ok ht (commit_unread (unread_readVs ((mem_regsUpTo x r).2 hr) h).bind)
  · exact commit_unread (unread_readDt h).bind
  · refine ⟨rfl, fun h => ⟨s.recordOf none ⟨.uninitialisedRead, none⟩, ?_, rfl, rfl, rfl⟩, fun h => ?_⟩
    · rw [Transaction.response, State.soundTimer_eq, if_pos h]
    · rw [Transaction.response, State.soundTimer_eq, if_neg (by rw [h]; nofun)]

/-- Settles O60: the fetch, the load and the draw stop at the first byte with no value. -/
theorem readingAValuelessByteFaults : Obligations.ReadingAValuelessByteFaults := by
  refine ⟨fun s a hrun hpc h ha => ?_, fun x k s hi hrange hk h hbefore => ?_,
    fun x y n k s hx hy hi hrange hk hvis h hbefore => ?_⟩
  · rw [← recordedByteAddr_eq]
    exact step_of_fetch_error hrun (fetch_valueless hpc h ha)
  · rw [← recordedByteAddr_eq]
    exact commit_bind_ok (transferBase_ok hi (by omega) (by omega) nofun)
      (commit_bind_error (loadBytes_valueless (by omega) (by omega) h hbefore))
  · rw [← recordedByteAddr_eq]
    have hload : s.loadBytes s.i.toNat (visibleRows (s.v[y].toNat % 32) n) = _ :=
      loadBytes_valueless (Nat.lt_min.2 ⟨hk, by omega⟩) (by omega) h hbefore
    exact exec_drw_error hx hy ((spriteRows_in_range hi (by omega) hrange).trans hload)

end Sys2Proof.Machine
end
